-- ==== Sys2Proof/Word.lean ====
section
/-! DEFINITION. The widths of the block: register words, bus bytes, bus addresses, register offsets, raw fields. -/

namespace Sys2Proof

/-- A host register, 32 bits (R23). -/
abbrev Word := BitVec 32

/-- A bus byte (R9). -/
abbrev Byte := BitVec 8

/-- A 7-bit bus address (R33, R50). -/
abbrev BusAddr := BitVec 7

/-- A byte offset into the 256-byte host register space (R50). -/
abbrev Offset := BitVec 8

/-- A raw measurement field (R39, R40). -/
abbrev Raw := BitVec 20

end Sys2Proof
end

