-- ==== Sys2Proof/Config.lean ====
section
/-! DEFINITION. What an implementation fixes (the OPEN parameters of R7) and the free values (the
draws of R12), as uninterpreted constants. -/

namespace Sys2Proof

/-- STATUS_FAIL_POLICY (R167). -/
inductive StatusFailPolicy
  | propagate
  | asZero
  deriving DecidableEq, Repr, Inhabited

/-- The OPEN parameters of the block (R7). HOST_FLOAT is `Config.hostRound` below, since it is a
parameter of the host and not of the block (R217). -/
structure Params where
  /-- STATUS_FAIL_POLICY (R165, R167). -/
  statusFailPolicy : StatusFailPolicy
  /-- TE_TO_UNINIT (R163). -/
  teToUninit : Bool
  /-- TICKS_PER_MS less one: the parameter is a positive integer (R266, log 18). -/
  ticksPerMsLessOne : Nat
  /-- BUS_TIMEOUT: none, or a tick count (R107). -/
  busTimeout : Option Nat
  /-- F_SCL in hertz; no rule depends on it (R276, log 24). -/
  fScl : Nat
  /-- T_POWERUP in milliseconds: the host's wait before the first command (R263, log 24). -/
  tPowerup : Nat
  deriving DecidableEq, Repr, Inhabited

/-- TICKS_PER_MS (R266). -/
def Params.ticksPerMs (p : Params) : Nat := p.ticksPerMsLessOne + 1

/-- The device's answer to a byte the block sends (R101), or no answer in this tick (R107). -/
inductive TxAnswer
  | ack
  | nack
  | fail
  | stall
  deriving DecidableEq, Repr, Inhabited

/-- The device's answer where the block receives a byte (R101), or no answer in this tick (R107). -/
inductive RxAnswer
  | byte (d : Byte)
  | fail
  | stall
  deriving DecidableEq, Repr, Inhabited

/-- The OPEN parameters of the machine (R7): nothing is known of them (log 5). -/
opaque Config.params : Params

/-- The device's answer to a sent byte, at a draw number (R12, R101, log 3). -/
opaque Config.txAnswer : Nat → TxAnswer

/-- The device's answer where a byte is received, at a draw number (R12, R101, log 3). -/
opaque Config.rxAnswer : Nat → RxAnswer

/-- How many ticks a settle wait lasts beyond its minimum, at a draw number (R266, log 3). -/
opaque Config.waitExtra : Nat → Nat

/-- A byte of RX after a failed read, at a draw number (R36, R110). -/
opaque Config.rxByte : Nat → Byte

/-- What a read of RXD0 or RXD1 returns while busy, at a draw number (R46, R56). -/
opaque Config.rxdWhileBusy : Nat → Word

/-- HOST_FLOAT: the rounding of the host's floating-point format (R217, log 22). -/
opaque Config.hostRound : Rat → Rat

end Sys2Proof
end

