-- ==== Sys2Proof/Syntax.lean ====
section
/-! DEFINITION. The rows of the opcode table, the forms they are encoded in, and the host's accesses and programs. -/

namespace Sys2Proof

/-- The direction of a bus transaction: the read/write bit of the address byte (R77). -/
inductive Dir
  | write
  | read
  deriving DecidableEq, Repr

/-- One constructor per row of the opcode table: the six host command words (R71), the four device
commands (R79) and the address byte that opens every transaction (R77). -/
inductive Instr
  /-- BUS_WRITE (R103). -/
  | busWrite
  /-- BUS_READ (R109). -/
  | busRead
  /-- STATUS_READ (R168). -/
  | statusRead
  /-- INITIALIZE (R169). -/
  | initializeCmd
  /-- SOFT_RESET (R174). -/
  | softReset
  /-- MEASURE with its one operand CRC_EN (R72, R177). -/
  | measure (crcEn : Bool)
  /-- DEV_INIT: the data bytes BE 08 00 (R79, R171). -/
  | devInit
  /-- DEV_MEASURE: the data bytes AC 33 00 (R79, R178). -/
  | devMeasure
  /-- DEV_SOFT_RESET: the data byte BA (R79, R174). -/
  | devSoftReset
  /-- DEV_STATUS: the data byte 71 (R79, R164). -/
  | devStatus
  /-- BUS_ADDRESS_BYTE: the first byte of a transaction, address and direction (R77). -/
  | busAddressByte (addr : BusAddr) (dir : Dir)
  deriving DecidableEq, Repr

/-- A host command: what a word written to CMD decodes to, and what `cur` latches (R24, R43, R71). -/
inductive HostCmd
  | busWrite
  | busRead
  | statusRead
  | initializeCmd
  | softReset
  | measure (crcEn : Bool)
  deriving DecidableEq, Repr

/-- The instruction a host command is. -/
def HostCmd.toInstr : HostCmd → Instr
  | .busWrite => .busWrite
  | .busRead => .busRead
  | .statusRead => .statusRead
  | .initializeCmd => .initializeCmd
  | .softReset => .softReset
  | .measure crcEn => .measure crcEn

/-- The forms an instruction is encoded in (R70): a word written to CMD, the data bytes of a bus
write in send order, or the byte that opens a transaction. What a byte 0x71 means depends on
which of the last two places it stands in (R77). -/
inductive Code
  | word (w : Word)
  | data (bytes : List Byte)
  | address (b : Byte)
  deriving DecidableEq, Repr

/-- Why an encoding is no instruction (R71, R73); the last is for data bytes that are no device
command of the table (the host may still send them with BUS_WRITE, R80). -/
inductive DecodeError
  | reservedBits
  | reservedOpcode
  | crcEnWithoutMeasure
  | notADeviceCommand
  deriving DecidableEq, Repr

/-- The twelve host registers (R23). -/
inductive RegName
  | cmd
  | stat
  | addr
  | len
  | txd0
  | txd1
  | rxd0
  | rxd1
  | devstat
  | crcr
  | rawH
  | rawT
  deriving DecidableEq, Repr

/-- One thing the outside world does to the block between two block steps: a host access of `size`
bytes at a register offset (R52, R56), a POLL (R84) whose every unsuccessful reading leaves the
block `gap` steps before the next, or the platform's block reset (R260). -/
inductive HostAction
  | read (size : Nat) (off : Offset)
  | write (size : Nat) (off : Offset) (v : Word)
  | poll (gap : Nat)
  | blockReset
  deriving DecidableEq, Repr

/-- A line of a host program in the spec's notation (R84). -/
inductive HostStmt
  | wr (r : RegName) (v : Word)
  | rd (r : RegName)
  | poll
  | command (c : HostCmd)
  | setAddr (a : Word)
  | send (bytes : List Byte)
  | recv (n : Nat)
  deriving DecidableEq, Repr

end Sys2Proof
end

