-- ==== Sys2Proof/Machine/State.lean ====
section
/-! DEFINITION. The state of the block as plain data (R20), the reasons a step can stop, and the
state after block reset (R45, R260). -/

namespace Sys2Proof.Machine

/-! ### The parts of the state -/

/-- The sensor-driver state machine (R42). -/
inductive Fsm
  | uninitialized
  | calibrated
  | measuring
  | ready
  deriving DecidableEq, Repr

/-- The error kinds (R231). The codes 6 and 7 are never written, so they have no constructor. -/
inductive ErrCode
  | none
  | transport
  | notCalibrated
  | deviceBusy
  | integrity
  | initNotReady
  deriving DecidableEq, Repr

/-- The fields of STAT (R26 to R31). Its other bits read 0 (R32). -/
structure Stat where
  busy : Bool
  done : Bool
  ok : Bool
  err : ErrCode
  fsm : Fsm
  valid : Bool
  deriving DecidableEq, Repr

/-- Whether a transaction is open on the bus (R43). -/
inductive BusPhase
  | idle
  | inTransaction
  deriving DecidableEq, Repr

/-- An acknowledge bit on the bus (R101). -/
inductive Ack
  | ack
  | nack
  deriving DecidableEq, Repr

/-- What ended a `TX` or `RX` that is recorded as `FAIL`: the device, which did not respond or
disconnected (R101), or the timeout of a stall (R107). R232 has the trace show which (log 30). -/
inductive FailCause
  | device
  | timeout
  deriving DecidableEq, Repr

/-- The bus events (R101). -/
inductive BusEvent
  /-- `S`. -/
  | start
  /-- `TX(b, r)` with `r` ACK or NACK. -/
  | tx (b : Byte) (r : Ack)
  /-- `RX(d, m)`. -/
  | rx (d : Byte) (m : Ack)
  /-- `FAIL`, with its cause (R232). -/
  | fail (cause : FailCause)
  /-- `P`. -/
  | stop
  /-- `WAIT(ms)`. -/
  | wait (ms : Nat)
  deriving DecidableEq, Repr

/-- The transactions the commands make (R103, R109, R165, R169, R174, R177). `again` marks the
second status read of INITIALIZE. -/
inductive Xfer
  | hostWrite
  | hostRead
  | statusWrite (again : Bool)
  | statusRead (again : Bool)
  | initWrite
  | resetWrite
  | trigger
  | frameRead (crcEn : Bool)
  deriving DecidableEq, Repr

/-- The settle waits (R267). -/
inductive Settle
  | init
  | measure
  | softReset
  deriving DecidableEq, Repr

/-- The sequencer step `seq` (R22, R43): what the next block step does. -/
inductive Seq
  /-- No command runs. -/
  | idle
  /-- The next step emits START of a transaction. -/
  | start (x : Xfer)
  /-- The next step sends the address byte. -/
  | address (x : Xfer)
  /-- The next step sends or receives data byte `i`. -/
  | data (x : Xfer) (i : Nat)
  /-- The next step emits STOP; `ok` says whether the transaction succeeded. -/
  | stop (x : Xfer) (ok : Bool)
  /-- The next step emits WAIT and draws the wait's length. -/
  | settle (w : Settle)
  /-- The next step is a tick of the wait. -/
  | ticking (w : Settle)
  /-- The next step is MEASURE's final step over the received frame. -/
  | evaluate
  /-- The next step is the command's final step, with this error code. -/
  | final (e : ErrCode)
  deriving DecidableEq, Repr

/-- Why a host action is refused (R56, R71, R102). -/
inductive RefuseReason
  | unmappedOrMisaligned
  | readOnly
  | busy
  | encoding (e : DecodeError)
  | zeroLength
  deriving DecidableEq, Repr

/-- What one host read returned: the register's offset and the value (R56). -/
structure HostRead where
  off : Offset
  value : Word
  deriving DecidableEq, Repr

/-- The model's own record of the world outside the block: inputs, not state of the block (R20,
logs 2, 3, 4, 20). -/
structure Env where
  /-- The host actions to come; each number is how many block steps run before the action (R64). -/
  inputs : List (Nat × HostAction)
  /-- The device's next answers to sent bytes; when empty, a free value (R12, R101). -/
  txAnswers : List TxAnswer
  /-- The device's next answers where bytes are received; when empty, a free value. -/
  rxAnswers : List RxAnswer
  /-- The next settle waits' ticks beyond the minimum; when empty, a free value (R266). -/
  waitExtras : List Nat
  /-- How many free values have been drawn: the argument of the next one. -/
  draws : Nat
  /-- What the host's reads returned, oldest first (R56). -/
  hostReads : List HostRead
  deriving DecidableEq, Repr

/-- The state of the machine. CMD holds nothing (R25), so it has no field. -/
structure State where
  /-- STAT (R26 to R32). -/
  stat : Stat
  /-- ADDR.DEV_ADDR (R33). -/
  devAddr : BusAddr
  /-- LEN.N (R34). -/
  len : BitVec 3
  /-- TX[0..6], seen through TXD0 and TXD1 (R35). -/
  tx : Vector Byte 7
  /-- RX[0..6], seen through RXD0 and RXD1 (R36). -/
  rx : Vector Byte 7
  /-- DEVSTAT.STATUS (R37). -/
  devstat : Byte
  /-- CRCR.CALC (R38). -/
  crcCalc : Byte
  /-- CRCR.RECV (R38). -/
  crcRecv : Byte
  /-- RAW_H.H (R39). -/
  rawH : Raw
  /-- RAW_T.T (R40). -/
  rawT : Raw
  /-- The command now running (R43). -/
  cur : Option HostCmd
  /-- The sequencer step (R43). -/
  seq : Seq
  /-- The FSM state when `cur` was issued (R43). -/
  preFsm : Fsm
  /-- Whether a transaction is open on the bus (R43). -/
  bus : BusPhase
  /-- Ticks left of a settle wait (R43, R266). -/
  waitLeft : Nat
  /-- Every bus event since reset, oldest first (R43). -/
  trace : List BusEvent
  /-- The refused mark: the reason of the first refusal of the run (R11, R20, log 1). -/
  refused : Option RefuseReason
  /-- Ticks the device has stalled at the present bus step (R107, log 9). -/
  stallTicks : Nat
  /-- The OPEN parameters, which no step changes (R7, log 5). -/
  cfg : Params
  /-- The world outside the block. -/
  env : Env
  deriving DecidableEq, Repr

/-! ### The reasons a step can stop -/

/-- The faults. The spec has none (R240); the one below is the model's. -/
inductive Fault
  /-- Raised by a meaning asked to run at a sequencer position that is not one of its own, and by
  the step when STAT.BUSY is set and no command is latched. No run from reset gets there. Safe: the
  model stops where the spec gives nothing (log 13). -/
  | offSequence
  deriving DecidableEq, Repr

/-- The refusals. -/
inductive Refusal
  /-- Raised by an arm of exec whose instruction has no meaning yet; no arm of this model does. Safe. -/
  | notModelled (mnemonic : String)
  deriving DecidableEq, Repr

/-! ### Reset -/

/-- The block right after block reset (R45, R260, R262). The inputs are empty and the parameters
unknown (logs 2 to 5). -/
def State.reset : State where
  stat := { busy := false, done := false, ok := false, err := .none, fsm := .uninitialized, valid := false }
  devAddr := 0x38
  len := 0
  tx := Vector.replicate 7 0
  rx := Vector.replicate 7 0
  devstat := 0
  crcCalc := 0
  crcRecv := 0
  rawH := 0
  rawT := 0
  cur := none
  seq := .idle
  preFsm := .uninitialized
  bus := .idle
  waitLeft := 0
  trace := []
  refused := none
  stallTicks := 0
  cfg := Config.params
  env := { inputs := [], txAnswers := [], rxAnswers := [], waitExtras := [], draws := 0, hostReads := [] }

end Sys2Proof.Machine
end

