-- ==== Sys2Proof/Machine/Flags.lean ====
section
/-! DEFINITION. The status register and the Status Byte: codes (R42, R231), the word STAT reads as
(R56), what issuing and finishing a command do to it (R160, R236), and the FSM's exits (R163, R187). -/

namespace Sys2Proof.Machine

/-- The encoding of STAT.FSM (R42). -/
def Fsm.code : Fsm → BitVec 2
  | .uninitialized => 0b00
  | .calibrated => 0b01
  | .measuring => 0b10
  | .ready => 0b11

/-- The encoding of STAT.ERR (R231). -/
def ErrCode.code : ErrCode → BitVec 3
  | .none => 0
  | .transport => 1
  | .notCalibrated => 2
  | .deviceBusy => 3
  | .integrity => 4
  | .initNotReady => 5

/-- The value a read of STAT returns: VALID ++ FSM ++ 0 ++ ERR ++ 0 ++ OK ++ DONE ++ BUSY, widened (R56). -/
def Stat.word (t : Stat) : Word :=
  (BitVec.ofBool t.valid ++ t.fsm.code ++ 0#1 ++ t.err.code ++ 0#1 ++
    BitVec.ofBool t.ok ++ BitVec.ofBool t.done ++ BitVec.ofBool t.busy).setWidth 32

/-- Bit 3 of a Status Byte, the ready bit (R44, R124). -/
def calBit (status : Byte) : Bool := status.getLsbD 3

/-- Bit 7 of a Status Byte, the busy bit (R44, R124). -/
def busyBit (status : Byte) : Bool := status.getLsbD 7

/-- STAT when a command is issued (R160). -/
def Stat.issued (t : Stat) : Stat := { t with busy := true, done := false, ok := false, err := .none }

/-- STAT when a command finishes with an error code (R236). -/
def Stat.finished (t : Stat) (e : ErrCode) : Stat :=
  { t with busy := false, done := true, ok := decide (e = .none), err := e }

/-- The FSM after the transport-error exit of INITIALIZE or MEASURE (R163); `back` is where the
command returns when TE_TO_UNINIT is false. -/
def teFsm (p : Params) (back : Fsm) : Fsm := if p.teToUninit then .uninitialized else back

end Sys2Proof.Machine
end

