-- ==== Sys2Proof/WellFormed.lean ====
section
/-! DEFINITION. Which terms of the syntax are well formed. -/

namespace Sys2Proof

/-- The command word's rules (R71, R73) leave nothing to check of an `Instr`: only MEASURE has an
operand bit, and an address is 7 bits by its type. Every term is well formed. -/
def Instr.wellFormed : Instr → Bool
  | .busWrite => true
  | .busRead => true
  | .statusRead => true
  | .initializeCmd => true
  | .softReset => true
  | .measure _ => true
  | .devInit => true
  | .devMeasure => true
  | .devSoftReset => true
  | .devStatus => true
  | .busAddressByte _ _ => true

/-- The registers a host may write (R23, R54). -/
def RegName.writable : RegName → Bool
  | .cmd => true
  | .stat => false
  | .addr => true
  | .len => true
  | .txd0 => true
  | .txd1 => true
  | .rxd0 => false
  | .rxd1 => false
  | .devstat => false
  | .crcr => false
  | .rawH => false
  | .rawT => false

/-- A host access in itself legal: 32 bits at a multiple of 4 that is mapped (R51, R52, R53). -/
def HostAction.wellFormed : HostAction → Bool
  | .read size off => size == 4 && off.toNat % 4 == 0 && decide (off.toNat ≤ 0x2C)
  | .write size off _ => size == 4 && off.toNat % 4 == 0 && decide (off.toNat ≤ 0x2C)
  | .poll _ => true
  | .blockReset => true

/-- A line of a host program: writes go to writable registers, SEND carries 1 to 7 bytes and RECV
asks for 1 to 7 (R54, R60, R84). -/
def HostStmt.wellFormed : HostStmt → Bool
  | .wr r _ => r.writable
  | .rd _ => true
  | .poll => true
  | .command _ => true
  | .setAddr _ => true
  | .send bytes => decide (1 ≤ bytes.length) && decide (bytes.length ≤ 7)
  | .recv n => decide (1 ≤ n) && decide (n ≤ 7)

end Sys2Proof
end

