-- ==== Sys2Proof/Decode.lean ====
section
/-! DEFINITION. The encoding tables (R71, R77, R79), the decoder, total on every encoding and
rejecting by name, and after it the encoder. -/

namespace Sys2Proof

/-! ### The decoder -/

/-- `decode(v)` of R71: the checks in the order the rule gives them. -/
def decodeWord (v : Word) : Except DecodeError HostCmd :=
  let op := v.extractLsb' 0 3
  let crcEn := v.getLsbD 3
  if v.extractLsb' 4 28 ≠ 0 then .error .reservedBits
  else if op = 0b000 ∨ op = 0b111 then .error .reservedOpcode
  else if op ≠ 0b110 ∧ crcEn then .error .crcEnWithoutMeasure
  else if op = 0b001 then .ok .busWrite
  else if op = 0b010 then .ok .busRead
  else if op = 0b011 then .ok .statusRead
  else if op = 0b100 then .ok .initializeCmd
  else if op = 0b101 then .ok .softReset
  else .ok (.measure crcEn)

/-- The device command a whole data part of a bus write is (R79); any other bytes are none. -/
def decodeData (bytes : List Byte) : Except DecodeError Instr :=
  if bytes = [0xBE, 0x08, 0x00] then .ok .devInit
  else if bytes = [0xAC, 0x33, 0x00] then .ok .devMeasure
  else if bytes = [0xBA] then .ok .devSoftReset
  else if bytes = [0x71] then .ok .devStatus
  else .error .notADeviceCommand

/-- The address byte (R77): the address in bits 7:1, the direction in bit 0 (0 write, 1 read). -/
def decodeAddress (b : Byte) : Instr :=
  .busAddressByte (b.extractLsb' 1 7) (if b.getLsbD 0 then .read else .write)

/-- The instruction an encoding is, by the place it stands in (R70). -/
def decode : Code → Except DecodeError Instr
  | .word w => (decodeWord w).map HostCmd.toInstr
  | .data bytes => decodeData bytes
  | .address b => .ok (decodeAddress b)

/-! ### The encoder -/

/-- The full command words of R71. -/
def HostCmd.word : HostCmd → Word
  | .busWrite => 0x00000001
  | .busRead => 0x00000002
  | .statusRead => 0x00000003
  | .initializeCmd => 0x00000004
  | .softReset => 0x00000005
  | .measure false => 0x00000006
  | .measure true => 0x0000000E

/-- The INIT device command (R79). -/
def initBytes : List Byte := [0xBE, 0x08, 0x00]

/-- The MEASURE device command (R79). -/
def measureBytes : List Byte := [0xAC, 0x33, 0x00]

/-- The SOFT_RESET device command (R79). -/
def softResetBytes : List Byte := [0xBA]

/-- The STATUS device command (R79). -/
def statusBytes : List Byte := [0x71]

/-- `(a7 << 1) | r` (R77). -/
def addressByte (a : BusAddr) : Dir → Byte
  | .write => a.setWidth 8 <<< 1
  | .read => (a.setWidth 8 <<< 1) ||| 1

/-- The encoding of an instruction. -/
def encode : Instr → Code
  | .busWrite => .word HostCmd.busWrite.word
  | .busRead => .word HostCmd.busRead.word
  | .statusRead => .word HostCmd.statusRead.word
  | .initializeCmd => .word HostCmd.initializeCmd.word
  | .softReset => .word HostCmd.softReset.word
  | .measure crcEn => .word (HostCmd.measure crcEn).word
  | .devInit => .data initBytes
  | .devMeasure => .data measureBytes
  | .devSoftReset => .data softResetBytes
  | .devStatus => .data statusBytes
  | .busAddressByte a dir => .address (addressByte a dir)

/-! ### The numbering of spec/opcode_table.json -/

/-- The encoding a number of `nbits` bits stands for in the opcode table's numbering (log 11): 32
bits are a command word; 24 bits are three data bytes, the first one sent leftmost ("first byte
leftmost"); 8 bits are a one-byte device command where the byte is one of the table's, otherwise
an address byte. No other length is in the table. -/
def codeOfTableWord (nbits w : Nat) : Option Code :=
  if 2 ^ nbits ≤ w then none
  else match nbits with
    | 32 => some (.word (BitVec.ofNat 32 w))
    | 24 => some (.data [BitVec.ofNat 8 (w / 65536), BitVec.ofNat 8 (w / 256), BitVec.ofNat 8 w])
    | 8 =>
      if w = 0xBA ∨ w = 0x71 then some (.data [BitVec.ofNat 8 w])
      else some (.address (BitVec.ofNat 8 w))
    | _ => none

/-- The instruction the decoder reads from a word of the opcode table; none where it refuses. -/
def decodeTableWord (nbits w : Nat) : Option Instr :=
  match codeOfTableWord nbits w with
  | none => none
  | some c =>
    match decode c with
    | .ok i => some i
    | .error _ => none

end Sys2Proof
end

