-- ==== Sys2Proof/Machine/Operands.lean ====
section
/-! DEFINITION. Where the commands take their operands from: the bytes and lengths of the
transactions (R72, R79, R83), the settle times (R267), and the packing of buffers into registers (R63). -/

namespace Sys2Proof.Machine

/-- The direction of a transaction (R103, R109, R165, R169, R174, R177). -/
def Xfer.dir : Xfer → Dir
  | .hostWrite => .write
  | .hostRead => .read
  | .statusWrite _ => .write
  | .statusRead _ => .read
  | .initWrite => .write
  | .resetWrite => .write
  | .trigger => .write
  | .frameRead _ => .read

/-- The frame's length: 6 bytes, 7 with CRC (R83, R180). -/
def frameLen (crcEn : Bool) : Nat := if crcEn then 7 else 6

/-- How many data bytes a transaction moves (R72, R79, R83, R165). -/
def xferLen (s : State) : Xfer → Nat
  | .hostWrite => s.len.toNat
  | .hostRead => s.len.toNat
  | .statusWrite _ => statusBytes.length
  | .statusRead _ => 1
  | .initWrite => initBytes.length
  | .resetWrite => softResetBytes.length
  | .trigger => measureBytes.length
  | .frameRead crcEn => frameLen crcEn

/-- Data byte `i` of BUS_WRITE: TX[i] (R72, R103). -/
def hostByte (s : State) (i : Nat) : Byte := s.tx.toList.getD i 0

/-- Byte `i` of a device command (R79). -/
def byteAt (bytes : List Byte) (i : Nat) : Byte := bytes.getD i 0

/-- Where a command starts: its first sequencer step (R160 and each command's pseudocode). -/
def firstStep : HostCmd → Seq
  | .busWrite => .start .hostWrite
  | .busRead => .start .hostRead
  | .statusRead => .start (.statusWrite false)
  | .initializeCmd => .start (.statusWrite false)
  | .softReset => .start .resetWrite
  | .measure _ => .start .trigger

/-- Whether a command takes its length from LEN, so that LEN.N = 0 refuses it (R34, R102). -/
def usesLen : HostCmd → Bool
  | .busWrite => true
  | .busRead => true
  | .statusRead => false
  | .initializeCmd => false
  | .softReset => false
  | .measure _ => false

/-- Data byte `i` follows if there is one, otherwise STOP (R104, R110). -/
def dataOrStop (x : Xfer) (i n : Nat) : Seq := if i < n then .data x i else .stop x true

/-- The settle times in milliseconds (R267). -/
def settleMs : Settle → Nat
  | .init => 10
  | .measure => 80
  | .softReset => 20

/-- The shortest length of a settle wait in ticks (R266). -/
def minTicks (p : Params) (w : Settle) : Nat := settleMs w * p.ticksPerMs

/-- The answer the block gives to received byte `i` of `n`: ACK but for the last (R76, R110). -/
def readAck (i n : Nat) : Ack := if i + 1 < n then .ack else .nack

/-! ### Buffers and registers -/

/-- Four bytes as a register, the first in bits 7:0 (R63). -/
def packWord (b0 b1 b2 b3 : Byte) : Word := b3 ++ b2 ++ b1 ++ b0

/-- Lane `i` of a register: bits 8i+7 : 8i (R63). -/
def lane (v : Word) (i : Nat) : Byte := v.extractLsb' (8 * i) 8

/-- Bytes 0 to 3 of a buffer as TXD0 or RXD0 (R35, R36, R56). -/
def lowWord (b : Vector Byte 7) : Word := packWord b[0] b[1] b[2] b[3]

/-- Bytes 4 to 6 of a buffer as TXD1 or RXD1; bits 31:24 read 0 (R35, R36, R56). -/
def highWord (b : Vector Byte 7) : Word := packWord b[4] b[5] b[6] 0

/-- A write of TXD0 (R56). -/
def writeLow (b : Vector Byte 7) (v : Word) : Vector Byte 7 :=
  #v[lane v 0, lane v 1, lane v 2, lane v 3, b[4], b[5], b[6]]

/-- A write of TXD1; bits 31:24 are ignored (R35, R56). -/
def writeHigh (b : Vector Byte 7) (v : Word) : Vector Byte 7 :=
  #v[b[0], b[1], b[2], b[3], lane v 0, lane v 1, lane v 2]

end Sys2Proof.Machine
end

