-- ==== Sys2Proof/Machine/Ops.lean ====
section
/-! DEFINITION. The operations the meanings share: draws, bus events, settle waits, the refused
mark, issuing a command, and `finish`, the one way a command ends, with or without an error. The
block takes no exception (R230, R240): an error is reported by `finish` and nothing returns from it. -/

namespace Sys2Proof.Machine

/-! ### Draws -/

/-- The device's answer to a sent byte: the next one listed, else a free value (R12, R101). -/
def drawTx (s : State) : TxAnswer × State :=
  match s.env.txAnswers with
  | a :: rest => (a, { s with env := { s.env with txAnswers := rest } })
  | [] => (Config.txAnswer s.env.draws, { s with env := { s.env with draws := s.env.draws + 1 } })

/-- The device's answer where a byte is received: the next one listed, else a free value (R12, R101). -/
def drawRx (s : State) : RxAnswer × State :=
  match s.env.rxAnswers with
  | a :: rest => (a, { s with env := { s.env with rxAnswers := rest } })
  | [] => (Config.rxAnswer s.env.draws, { s with env := { s.env with draws := s.env.draws + 1 } })

/-- The ticks a settle wait lasts beyond its minimum: the next number listed, else a free value (R266). -/
def drawWait (s : State) : Nat × State :=
  match s.env.waitExtras with
  | k :: rest => (k, { s with env := { s.env with waitExtras := rest } })
  | [] => (Config.waitExtra s.env.draws, { s with env := { s.env with draws := s.env.draws + 1 } })

/-! ### Transactions (R104, R110) -/

/-- `bus <- IN_TRANSACTION; emit S`: the step that opens a transaction. -/
def openXfer (x : Xfer) (s : State) : State :=
  { s with bus := .inTransaction, trace := s.trace ++ [.start], seq := .address x, stallTicks := 0 }

/-- `emit FAIL`: the device did not respond or disconnected, or its stall timed out; STOP follows
(R104, R107, R110, R232, log 6). -/
def failByte (cause : FailCause) (x : Xfer) (s : State) : State :=
  { s with trace := s.trace ++ [.fail cause], seq := .stop x false, stallTicks := 0 }

/-- Whether one more tick of stall reaches BUS_TIMEOUT (R107, log 9). -/
def timesOut (s : State) : Bool :=
  match s.cfg.busTimeout with
  | none => false
  | some k => decide (k ≤ s.stallTicks + 1)

/-- A tick in which the device gives no answer: the block waits, and a stall of BUS_TIMEOUT ticks
ends the step with the answer FAIL (R107). -/
def stallByte (x : Xfer) (s : State) : State :=
  if timesOut s then failByte .timeout x s else { s with stallTicks := s.stallTicks + 1 }

/-- The device's answer `a` to the sent byte `b` of a transaction; `next` follows an ACK (R104, R110). -/
def answerTx (x : Xfer) (b : Byte) (next : Seq) (a : TxAnswer) (s : State) : State :=
  match a with
  | .ack => { s with trace := s.trace ++ [.tx b .ack], seq := next, stallTicks := 0 }
  | .nack => { s with trace := s.trace ++ [.tx b .nack], seq := .stop x false, stallTicks := 0 }
  | .fail => failByte .device x s
  | .stall => stallByte x s

/-- One step of sending a byte: `TX(b)` and the device's answer (R101, R104). -/
def transmit (x : Xfer) (b : Byte) (next : Seq) (s : State) : State :=
  answerTx x b next (drawTx s).1 (drawTx s).2

/-- Send data byte `b`, the `i`-th of a write transaction (R104). -/
def sendByte (x : Xfer) (b : Byte) (i : Nat) (s : State) : State :=
  transmit x b (dataOrStop x (i + 1) (xferLen s x)) s

/-- Whether the transaction is the read of a Status Byte (R165). -/
def Xfer.isStatusRead : Xfer → Bool
  | .hostWrite => false
  | .hostRead => false
  | .statusWrite _ => false
  | .statusRead _ => true
  | .initWrite => false
  | .resetWrite => false
  | .trigger => false
  | .frameRead _ => false

/-- Byte `d` is received as the `i`-th of the transaction: into RX[i], and for a status read into
DEVSTAT in the same step (R110, R165). -/
def takeByte (x : Xfer) (i : Nat) (d : Byte) (s : State) : State :=
  { s with
    rx := s.rx.setIfInBounds i d
    devstat := if x.isStatusRead then d else s.devstat
    trace := s.trace ++ [.rx d (readAck i (xferLen s x))]
    seq := dataOrStop x (i + 1) (xferLen s x)
    stallTicks := 0 }

/-- The device's answer `a` where byte `i` is received (R110). -/
def answerRx (x : Xfer) (i : Nat) (a : RxAnswer) (s : State) : State :=
  match a with
  | .byte d => takeByte x i d s
  | .fail => failByte .device x s
  | .stall => stallByte x s

/-- One step of receiving byte `i` (R110). -/
def receiveByte (x : Xfer) (i : Nat) (s : State) : State :=
  answerRx x i (drawRx s).1 (drawRx s).2

/-- `ReadFail(n)`: RX[0..n-1] hold any value, a fresh draw for each byte (R36, R110). -/
def scrambleRx (n : Nat) (s : State) : State :=
  { s with
    rx := Vector.ofFn fun j : Fin 7 => if j.val < n then Config.rxByte (s.env.draws + j.val) else s.rx[j]
    env := { s.env with draws := s.env.draws + n } }

/-- What a failed read does beside STOP; a failed write does nothing (R104, R110). -/
def afterFailure (x : Xfer) (s : State) : State :=
  match x.dir with
  | .write => s
  | .read => scrambleRx (xferLen s x) s

/-- `emit P; bus <- IDLE`: the step that closes a transaction, also one that failed (R106); `next`
is where the command goes on. -/
def closeXfer (x : Xfer) (ok : Bool) (next : Seq) (s : State) : State :=
  let t := if ok then s else afterFailure x s
  { t with trace := t.trace ++ [.stop], bus := .idle, seq := next }

/-! ### Status reads (R165, R167) -/

/-- Where a status read that failed goes on, and the Status Byte 0x00 that AS_ZERO puts in DEVSTAT
in the step that ends the failed transaction (R165). -/
def absorbFailure (x : Xfer) (onByte : Byte → Seq) (s : State) : State :=
  match s.cfg.statusFailPolicy with
  | .propagate => closeXfer x false (.final .transport) s
  | .asZero => { closeXfer x false (onByte 0) s with devstat := 0 }

/-- The STOP of the STATUS write: the read follows with no wait (R165, R268). -/
def closeStatusWrite (again ok : Bool) (onByte : Byte → Seq) (s : State) : State :=
  if ok then closeXfer (.statusWrite again) true (.start (.statusRead again)) s
  else absorbFailure (.statusWrite again) onByte s

/-- The STOP of the 1-byte read: the Status Byte is the one just received, RX[0] (R165). -/
def closeStatusRead (again ok : Bool) (onByte : Byte → Seq) (s : State) : State :=
  if ok then closeXfer (.statusRead again) true (onByte s.rx[0]) s
  else absorbFailure (.statusRead again) onByte s

/-! ### Settle waits (R266) -/

/-- `emit WAIT(ms)` and draw the length; `next` follows the last tick (log 18). -/
def beginWait (w : Settle) (next : Seq) (s : State) : State :=
  let k := minTicks s.cfg w + (drawWait s).1
  let t := (drawWait s).2
  { t with
    trace := t.trace ++ [.wait (settleMs w)]
    waitLeft := k
    seq := if k = 0 then next else .ticking w }

/-- One tick of a settle wait. -/
def tick (next : Seq) (s : State) : State :=
  { s with waitLeft := s.waitLeft - 1, seq := if s.waitLeft ≤ 1 then next else s.seq }

/-! ### Refusing, issuing, finishing -/

/-- `refuse(reason)`: the mark is set and stays set; nothing else changes (R11, R242, log 1). -/
def refuse (r : RefuseReason) (s : State) : State := { s with refused := some (s.refused.getD r) }

/-- `issue(v)` after the decode (R160): a transfer of LEN.N = 0 bytes is refused (R102). -/
def issue (c : HostCmd) (s : State) : State :=
  if usesLen c ∧ s.len = 0 then refuse .zeroLength s
  else { s with cur := some c, preFsm := s.stat.fsm, stat := s.stat.issued, seq := firstStep c }

/-- `finish(err)` (R236). -/
def finish (e : ErrCode) (s : State) : State :=
  { s with stat := s.stat.finished e, cur := none, seq := .idle }

/-- `STAT.FSM <- f`. -/
def setFsm (f : Fsm) (s : State) : State := { s with stat := { s.stat with fsm := f } }

/-- A command word met by the block: an idle block issues it (R160), the block that runs it takes
its next step (R162), and a block that runs another command refuses it (R55, R161, log 25). -/
def asCommand (c : HostCmd) (advance : State → Host.Outcome State Fault Refusal) (s : State) :
    Host.Outcome State Fault Refusal :=
  if s.stat.busy = false then .next (issue c s)
  else if s.cur = some c then advance s
  else .next (refuse .busy s)

/-! ### Block reset -/

/-- Block reset (R260): every register and the hidden state take their reset values. The refused
mark, the parameters and the world outside stay (log 19). -/
def blockReset (s : State) : State :=
  { State.reset with refused := s.refused, cfg := s.cfg, env := s.env }

end Sys2Proof.Machine
end

