-- ==== Sys2Proof/Machine/DeviceCommands.lean ====
section
/-! DEFINITION. The device commands: each is the whole data part of one bus write transaction
(R79), sent from constants and not from TX (R80). A step sends one of its bytes. -/

namespace Sys2Proof.Machine

/-- DEV_INIT: BE 08 00, sent by INITIALIZE (R79, R171). -/
def execDevInit (s : State) : Host.Outcome State Fault Refusal :=
  match s.seq with
  | .data .initWrite i => .next (sendByte .initWrite (byteAt initBytes i) i s)
  | _ => .fault .offSequence

/-- DEV_MEASURE: AC 33 00, the trigger sent by MEASURE (R79, R178). -/
def execDevMeasure (s : State) : Host.Outcome State Fault Refusal :=
  match s.seq with
  | .data .trigger i => .next (sendByte .trigger (byteAt measureBytes i) i s)
  | _ => .fault .offSequence

/-- DEV_SOFT_RESET: BA, sent by SOFT_RESET (R79, R174). -/
def execDevSoftReset (s : State) : Host.Outcome State Fault Refusal :=
  match s.seq with
  | .data .resetWrite i => .next (sendByte .resetWrite (byteAt softResetBytes i) i s)
  | _ => .fault .offSequence

/-- DEV_STATUS: 71, sent by STATUS_READ and INITIALIZE (R79, R164, R165). -/
def execDevStatus (s : State) : Host.Outcome State Fault Refusal :=
  match s.seq with
  | .data (.statusWrite again) i =>
    .next (sendByte (.statusWrite again) (byteAt statusBytes i) i s)
  | _ => .fault .offSequence

end Sys2Proof.Machine
end

