-- ==== Sys2Proof/Machine/Crc8.lean ====
section
/-! DEFINITION. The CRC-8 validator, a pure function of its bytes (R140 to R147). -/

namespace Sys2Proof.Machine

/-- One bit of the MSB-first division by the polynomial 0x31 (R141). -/
def crcShift (c : Byte) : Byte := if c.getLsbD 7 then (c <<< 1) ^^^ 0x31 else c <<< 1

/-- `n` bits (R141). -/
def crcShifts : Nat → Byte → Byte
  | 0, c => c
  | n + 1, c => crcShifts n (crcShift c)

/-- One byte (R141). -/
def crcByte (c b : Byte) : Byte := crcShifts 8 (c ^^^ b)

/-- `Crc8(s)`: initial value 0xFF, bytes in index order, no final XOR (R141). -/
def crc8 (s : List Byte) : Byte := s.foldl crcByte 0xFF

/-- `CrcCheck(s)` of a 7-byte frame: the CRC-8 of its first six bytes is its last (R145); no other
sequence is a frame with a CRC. -/
def crcCheck : List Byte → Bool
  | [b0, b1, b2, b3, b4, b5, b6] => crc8 [b0, b1, b2, b3, b4, b5] == b6
  | _ => false

end Sys2Proof.Machine
end

