-- ==== Sys2Proof/Machine/Parser.lean ====
section
/-! DEFINITION. The measurement frame parser, a pure function of the frame bytes (R120 to R127). -/

namespace Sys2Proof.Machine

/-- What the parser extracts (R121). -/
structure Parsed where
  status : Byte
  h : Raw
  t : Raw
  crc : Option Byte
  deriving DecidableEq, Repr

/-- The humidity field: byte 1, byte 2 and the high nibble of byte 3 (R122). -/
def humidityField (b1 b2 b3 : Byte) : Raw :=
  (b1.setWidth 20 <<< 12) ||| (b2.setWidth 20 <<< 4) ||| (b3.extractLsb' 4 4).setWidth 20

/-- The temperature field: the low nibble of byte 3, byte 4 and byte 5 (R123). -/
def temperatureField (b3 b4 b5 : Byte) : Raw :=
  ((b3.extractLsb' 0 4).setWidth 20 <<< 16) ||| (b4.setWidth 20 <<< 8) ||| b5.setWidth 20

/-- `Parse(s)` for 6 or 7 bytes; other lengths are no frame (R121, R125). -/
def parse : List Byte → Option Parsed
  | [b0, b1, b2, b3, b4, b5] =>
    some { status := b0, h := humidityField b1 b2 b3, t := temperatureField b3 b4 b5, crc := none }
  | [b0, b1, b2, b3, b4, b5, b6] =>
    some { status := b0, h := humidityField b1 b2 b3, t := temperatureField b3 b4 b5, crc := some b6 }
  | _ => none

/-- `Parse` of the first 6 bytes (7 with CRC) of the receive buffer, as MEASURE uses it (R83, R121, R177). -/
def parseBuffer (b : Vector Byte 7) (crcEn : Bool) : Parsed :=
  { status := b[0], h := humidityField b[1] b[2] b[3], t := temperatureField b[3] b[4] b[5],
    crc := if crcEn then some b[6] else none }

end Sys2Proof.Machine
end

