-- ==== Sys2Proof/Machine/Sequencer.lean ====
section
/-! DEFINITION. The sensor sequencer: the meanings of STATUS_READ, INITIALIZE, SOFT_RESET and
MEASURE (R160 to R191). Each is the pseudocode of its rule, one arm per sequencer position. -/

namespace Sys2Proof.Machine

/-! ### STATUS_READ -/

/-- STATUS_READ is done with whatever Status Byte the read returns (R168). -/
def afterStatus (_status : Byte) : Seq := .final .none

/-- The steps of STATUS_READ (R165, R168). -/
def advanceStatusRead (s : State) : Host.Outcome State Fault Refusal :=
  match s.seq with
  | .start (.statusWrite false) => .next (openXfer (.statusWrite false) s)
  | .stop (.statusWrite false) ok => .next (closeStatusWrite false ok afterStatus s)
  | .start (.statusRead false) => .next (openXfer (.statusRead false) s)
  | .data (.statusRead false) i => .next (receiveByte (.statusRead false) i s)
  | .stop (.statusRead false) ok => .next (closeStatusRead false ok afterStatus s)
  | .final e => .next (finish e s)
  | _ => .fault .offSequence

/-- STATUS_READ: read the Status Byte into DEVSTAT; the FSM does not change (R168). -/
def execStatusRead (s : State) : Host.Outcome State Fault Refusal :=
  asCommand .statusRead advanceStatusRead s

/-! ### INITIALIZE -/

/-- Where INITIALIZE goes with a Status Byte: done if the ready bit is set; else the INIT command
after the first read, failure after the second (R169, R170, R172). -/
def afterInitStatus (again : Bool) (status : Byte) : Seq :=
  if calBit status then .final .none
  else if again then .final .initNotReady
  else .start .initWrite

/-- The FSM at the end of INITIALIZE (R163, R169, R172, R173). -/
def initFsm (e : ErrCode) (s : State) : Fsm :=
  match e with
  | .none => .calibrated
  | .transport => teFsm s.cfg s.preFsm
  | .notCalibrated => .uninitialized
  | .deviceBusy => .uninitialized
  | .integrity => .uninitialized
  | .initNotReady => .uninitialized

/-- The steps of INITIALIZE (R169). -/
def advanceInitialize (s : State) : Host.Outcome State Fault Refusal :=
  match s.seq with
  | .start (.statusWrite again) => .next (openXfer (.statusWrite again) s)
  | .stop (.statusWrite again) ok => .next (closeStatusWrite again ok (afterInitStatus again) s)
  | .start (.statusRead again) => .next (openXfer (.statusRead again) s)
  | .data (.statusRead again) i => .next (receiveByte (.statusRead again) i s)
  | .stop (.statusRead again) ok => .next (closeStatusRead again ok (afterInitStatus again) s)
  | .start .initWrite => .next (openXfer .initWrite s)
  | .stop .initWrite ok =>
    .next (closeXfer .initWrite ok (if ok then .settle .init else .final .transport) s)
  | .settle .init => .next (beginWait .init (.start (.statusWrite true)) s)
  | .ticking .init => .next (tick (.start (.statusWrite true)) s)
  | .final e => .next (finish e (setFsm (initFsm e s) s))
  | _ => .fault .offSequence

/-- INITIALIZE: confirm or establish the device's calibration (R169). -/
def execInitialize (s : State) : Host.Outcome State Fault Refusal :=
  asCommand .initializeCmd advanceInitialize s

/-! ### SOFT_RESET -/

/-- The steps of SOFT_RESET: whatever happens, the FSM ends UNINITIALIZED (R174, R175). -/
def advanceSoftReset (s : State) : Host.Outcome State Fault Refusal :=
  match s.seq with
  | .start .resetWrite => .next (openXfer .resetWrite s)
  | .stop .resetWrite ok =>
    .next (closeXfer .resetWrite ok (if ok then .settle .softReset else .final .transport) s)
  | .settle .softReset => .next (beginWait .softReset (.final .none) s)
  | .ticking .softReset => .next (tick (.final .none) s)
  | .final e => .next (finish e (setFsm .uninitialized s))
  | _ => .fault .offSequence

/-- SOFT_RESET: send the device's soft-reset command (R174). -/
def execSoftReset (s : State) : Host.Outcome State Fault Refusal :=
  asCommand .softReset advanceSoftReset s

/-! ### MEASURE -/

/-- MEASURE's first step: NOT_CALIBRATED at once, or the FSM to MEASURING with the first START (R177, R179). -/
def beginMeasure (s : State) : State :=
  if s.stat.fsm = .uninitialized then finish .notCalibrated s
  else openXfer .trigger (setFsm .measuring s)

/-- The CRC registers a MEASURE with CRC writes (R38, R182). -/
def recordCrc (s : State) : State :=
  { s with
    crcCalc := crc8 [s.rx[0], s.rx[1], s.rx[2], s.rx[3], s.rx[4], s.rx[5]]
    crcRecv := s.rx[6] }

/-- The Decoded Reading a successful MEASURE writes (R184). -/
def recordReading (p : Parsed) (s : State) : State :=
  { s with rawH := p.h, rawT := p.t, stat := { s.stat with valid := true, fsm := .ready } }

/-- MEASURE's final step over the received frame: busy check, CRC check, result (R177, R181, R182, R184). -/
def evaluateFrame (crcEn : Bool) (s : State) : State :=
  let p := parseBuffer s.rx crcEn
  let t := { s with devstat := p.status }
  if busyBit p.status then finish .deviceBusy (setFsm .calibrated t)
  else if crcEn then
    let u := recordCrc t
    if u.crcCalc ≠ u.crcRecv then finish .integrity (setFsm .calibrated u)
    else finish .none (recordReading p u)
  else finish .none (recordReading p t)

/-- The steps of MEASURE (R177). -/
def advanceMeasure (crcEn : Bool) (s : State) : Host.Outcome State Fault Refusal :=
  match s.seq with
  | .start .trigger => .next (beginMeasure s)
  | .stop .trigger ok =>
    .next (closeXfer .trigger ok (if ok then .settle .measure else .final .transport) s)
  | .settle .measure => .next (beginWait .measure (.start (.frameRead crcEn)) s)
  | .ticking .measure => .next (tick (.start (.frameRead crcEn)) s)
  | .start (.frameRead c) => .next (openXfer (.frameRead c) s)
  | .data (.frameRead c) i => .next (receiveByte (.frameRead c) i s)
  | .stop (.frameRead c) ok =>
    .next (closeXfer (.frameRead c) ok (if ok then .evaluate else .final .transport) s)
  | .evaluate => .next (evaluateFrame crcEn s)
  | .final .transport => .next (finish .transport (setFsm (teFsm s.cfg .calibrated) s))
  | _ => .fault .offSequence

/-- MEASURE: trigger a measurement, read the frame, check it and store the raw fields (R177). -/
def execMeasure (crcEn : Bool) (s : State) : Host.Outcome State Fault Refusal :=
  asCommand (.measure crcEn) (advanceMeasure crcEn) s

end Sys2Proof.Machine
end

