-- ==== Sys2Proof/Machine/Transport.lean ====
section
/-! DEFINITION. The bus transport: the meanings of BUS_WRITE, BUS_READ and of the address byte that
opens every transaction (R77, R103 to R116). -/

namespace Sys2Proof.Machine

/-- Where BUS_WRITE and BUS_READ go when their one transaction ends (R103, R109). -/
def transferResult (ok : Bool) : Seq := .final (if ok then .none else .transport)

/-- The steps of BUS_WRITE (R103). -/
def advanceBusWrite (s : State) : Host.Outcome State Fault Refusal :=
  match s.seq with
  | .start .hostWrite => .next (openXfer .hostWrite s)
  | .data .hostWrite i => .next (sendByte .hostWrite (hostByte s i) i s)
  | .stop .hostWrite ok => .next (closeXfer .hostWrite ok (transferResult ok) s)
  | .final e => .next (finish e s)
  | _ => .fault .offSequence

/-- BUS_WRITE: send TX[0..N-1] (R103). -/
def execBusWrite (s : State) : Host.Outcome State Fault Refusal := asCommand .busWrite advanceBusWrite s

/-- The steps of BUS_READ (R109). -/
def advanceBusRead (s : State) : Host.Outcome State Fault Refusal :=
  match s.seq with
  | .start .hostRead => .next (openXfer .hostRead s)
  | .data .hostRead i => .next (receiveByte .hostRead i s)
  | .stop .hostRead ok => .next (closeXfer .hostRead ok (transferResult ok) s)
  | .final e => .next (finish e s)
  | _ => .fault .offSequence

/-- BUS_READ: read N bytes into RX (R109). -/
def execBusRead (s : State) : Host.Outcome State Fault Refusal := asCommand .busRead advanceBusRead s

/-- BUS_ADDRESS_BYTE: the step of any transaction that sends its address byte; the first data byte
follows an ACK (R77, R104, R110). -/
def execBusAddressByte (a : BusAddr) (dir : Dir) (s : State) : Host.Outcome State Fault Refusal :=
  match s.seq with
  | .address x =>
    if x.dir = dir then .next (transmit x (addressByte a dir) (dataOrStop x 0 (xferLen s x)) s)
    else .fault .offSequence
  | _ => .fault .offSequence

end Sys2Proof.Machine
end

