-- ==== Sys2Proof/Machine/Dispatch.lean ====
section
/-! DEFINITION. One arm per row of the opcode table. -/

namespace Sys2Proof.Machine

def exec (i : Instr) (s : State) : Host.Outcome State Fault Refusal :=
  match i with
  | .busWrite => Sys2Proof.Machine.execBusWrite s
  | .busRead => Sys2Proof.Machine.execBusRead s
  | .statusRead => Sys2Proof.Machine.execStatusRead s
  | .initializeCmd => Sys2Proof.Machine.execInitialize s
  | .softReset => Sys2Proof.Machine.execSoftReset s
  | .measure crcEn => Sys2Proof.Machine.execMeasure crcEn s
  | .devInit => Sys2Proof.Machine.execDevInit s
  | .devMeasure => Sys2Proof.Machine.execDevMeasure s
  | .devSoftReset => Sys2Proof.Machine.execDevSoftReset s
  | .devStatus => Sys2Proof.Machine.execDevStatus s
  | .busAddressByte addr dir => Sys2Proof.Machine.execBusAddressByte addr dir s

end Sys2Proof.Machine
end

