-- ==== Sys2Proof/Machine/Registers.lean ====
section
/-! DEFINITION. The host register space: the map (R23, R51), what a read returns and what a write
stores (R56), and the accesses that are refused (R52 to R55). A write of CMD is not here: it issues
an instruction, which Fetch hands to exec. -/

namespace Sys2Proof.Machine

/-- The offset of a register (R23). -/
def regOffset : RegName → Offset
  | .cmd => 0x00
  | .stat => 0x04
  | .addr => 0x08
  | .len => 0x0C
  | .txd0 => 0x10
  | .txd1 => 0x14
  | .rxd0 => 0x18
  | .rxd1 => 0x1C
  | .devstat => 0x20
  | .crcr => 0x24
  | .rawH => 0x28
  | .rawT => 0x2C

/-- The register at an offset; none where the offset is no multiple of 4 or unmapped (R51, R52). -/
def regAt (off : Offset) : Option RegName :=
  match off.toNat with
  | 0x00 => some .cmd
  | 0x04 => some .stat
  | 0x08 => some .addr
  | 0x0C => some .len
  | 0x10 => some .txd0
  | 0x14 => some .txd1
  | 0x18 => some .rxd0
  | 0x1C => some .rxd1
  | 0x20 => some .devstat
  | 0x24 => some .crcr
  | 0x28 => some .rawH
  | 0x2C => some .rawT
  | _ => none

/-- The register a host access of `size` bytes reaches; none where the access is refused (R52, R53, log 23). -/
def target (size : Nat) (off : Offset) : Option RegName := if size = 4 then regAt off else none

/-- The value a register holds, as a host read returns it (R25, R32 to R40, R56). -/
def readReg (r : RegName) (s : State) : Word :=
  match r with
  | .cmd => 0
  | .stat => s.stat.word
  | .addr => s.devAddr.setWidth 32
  | .len => s.len.setWidth 32
  | .txd0 => lowWord s.tx
  | .txd1 => highWord s.tx
  | .rxd0 => lowWord s.rx
  | .rxd1 => highWord s.rx
  | .devstat => s.devstat.setWidth 32
  | .crcr => (s.crcRecv ++ s.crcCalc).setWidth 32
  | .rawH => s.rawH.setWidth 32
  | .rawT => s.rawT.setWidth 32

/-- RXD0 and RXD1, whose value is a draw while a command runs (R46). -/
def isRxd : RegName → Bool
  | .cmd => false
  | .stat => false
  | .addr => false
  | .len => false
  | .txd0 => false
  | .txd1 => false
  | .rxd0 => true
  | .rxd1 => true
  | .devstat => false
  | .crcr => false
  | .rawH => false
  | .rawT => false

/-- Hand a value to the host (R56). -/
def returnValue (off : Offset) (v : Word) (s : State) : State :=
  { s with env := { s.env with hostReads := s.env.hostReads ++ [{ off := off, value := v }] } }

/-- A read of a mapped register: its value, or a draw for RXD0 and RXD1 while busy (R46, R56). -/
def readMapped (r : RegName) (off : Offset) (s : State) : State :=
  if isRxd r ∧ s.stat.busy then
    returnValue off (Config.rxdWhileBusy s.env.draws)
      { s with env := { s.env with draws := s.env.draws + 1 } }
  else returnValue off (readReg r s) s

/-- `MemRead(off, size)` (R56). -/
def hostRead (size : Nat) (off : Offset) (s : State) : State :=
  match target size off with
  | none => refuse .unmappedOrMisaligned s
  | some r => readMapped r off s

/-- What a write stores in an idle block: the fields of ADDR, LEN, TXD0 and TXD1 (R56). CMD stores
nothing (R25), and the read-only registers are refused before this (R54). -/
def storeReg (r : RegName) (v : Word) (s : State) : State :=
  match r with
  | .cmd => s
  | .stat => s
  | .addr => { s with devAddr := v.extractLsb' 0 7 }
  | .len => { s with len := v.extractLsb' 0 3 }
  | .txd0 => { s with tx := writeLow s.tx v }
  | .txd1 => { s with tx := writeHigh s.tx v }
  | .rxd0 => s
  | .rxd1 => s
  | .devstat => s
  | .crcr => s
  | .rawH => s
  | .rawT => s

/-- Why a write is refused before it is looked at, in the order of R56; none if it is legal. -/
def writeRefusal (size : Nat) (off : Offset) (s : State) : Option RefuseReason :=
  match target size off with
  | none => some .unmappedOrMisaligned
  | some r =>
    if r.writable = false then some .readOnly
    else if s.stat.busy then some .busy
    else none

/-- A legal write of a register other than CMD (R56). -/
def storeAt (off : Offset) (v : Word) (s : State) : State :=
  match regAt off with
  | some r => storeReg r v s
  | none => s

/-- A POLL: read STAT; while it shows BUSY the POLL stays next, `gap` block steps later (R84, log 21). -/
def pollStat (gap : Nat) (s : State) : State :=
  let t := readMapped .stat (regOffset .stat) s
  if s.stat.busy then { t with env := { t.env with inputs := (gap, .poll gap) :: t.env.inputs } } else t

end Sys2Proof.Machine
end

