-- ==== Sys2Proof/Machine/Fetch.lean ====
section
/-! DEFINITION. Which agent moves next, and which row of the opcode table its step runs: the host's
write of CMD issues a command (R24), and a block step runs the row the sequencer stands at (R22). -/

namespace Sys2Proof.Machine

/-- What one step is, before any instruction runs. -/
inductive Fetch
  /-- The step is complete: a host access that issues nothing, a block reset, or an idle block. -/
  | complete (s : State)
  /-- The step runs an instruction. -/
  | run (i : Instr) (s : State)
  /-- The block is busy with no command latched: no state of a run (log 13). -/
  | lost

/-- A host write (R56): CMD issues the command its value decodes to (R24, R71, R160). -/
def hostWrite (size : Nat) (off : Offset) (v : Word) (s : State) : Fetch :=
  match writeRefusal size off s with
  | some r => .complete (refuse r s)
  | none =>
    if off = regOffset .cmd then
      match decodeWord v with
      | .error e => .complete (refuse (.encoding e) s)
      | .ok c => .run c.toInstr s
    else .complete (storeAt off v s)

/-- A move of the world outside (R56, R84, R260). -/
def hostTurn (a : HostAction) (s : State) : Fetch :=
  match a with
  | .read size off => .complete (hostRead size off s)
  | .write size off v => hostWrite size off v s
  | .poll gap => .complete (pollStat gap s)
  | .blockReset => .complete (blockReset s)

/-- The row the sequencer stands at: the address byte, a device command's data bytes, or else the
command that runs (R22, logs 25, 29). -/
def rowAt (s : State) : Option Instr :=
  match s.seq with
  | .address x => some (.busAddressByte s.devAddr x.dir)
  | .data (.statusWrite _) _ => some .devStatus
  | .data .initWrite _ => some .devInit
  | .data .resetWrite _ => some .devSoftReset
  | .data .trigger _ => some .devMeasure
  | _ => s.cur.map HostCmd.toInstr

/-- A move of the block: an idle block waits (R262, log 15), a busy one runs the row it stands at. -/
def blockTurn (s : State) : Fetch :=
  if s.stat.busy = false then .complete s
  else match rowAt s with
    | some i => .run i s
    | none => .lost

/-- The state with other inputs. -/
def setInputs (l : List (Nat × HostAction)) (s : State) : State := { s with env := { s.env with inputs := l } }

/-- Who moves next: the host's first action when no block step is left before it, else the block (R64, log 2). -/
def fetch (s : State) : Fetch :=
  match s.env.inputs with
  | [] => blockTurn s
  | (0, a) :: rest => hostTurn a (setInputs rest s)
  | (n + 1, a) :: rest => blockTurn (setInputs ((n, a) :: rest) s)

/-! ### Placing an instruction where the next step finds it (log 12) -/

/-- The inputs with at least one block step before the first host action. -/
def blockFirst : List (Nat × HostAction) → List (Nat × HostAction)
  | (0, a) :: rest => (1, a) :: rest
  | l => l

/-- The block in the middle of command `c`, at sequencer position `q` of an open transaction. -/
def placeAt (c : HostCmd) (q : Seq) (s : State) : State :=
  { s with
    stat := s.stat.issued
    cur := some c
    seq := q
    bus := .inTransaction
    env := { s.env with inputs := blockFirst s.env.inputs } }

/-- An idle block whose host writes the word `w` to CMD next (R24). -/
def placeWord (w : Word) (s : State) : State :=
  { s with
    stat := { s.stat with busy := false }
    cur := none
    seq := .idle
    bus := .idle
    env := { s.env with inputs := (0, .write 4 (regOffset .cmd) w) :: s.env.inputs } }

/-- The state in which the next step runs the instruction `c` encodes: a host write of CMD, the
position of a command that sends the device command, or the address byte of a status read's
transaction. Data bytes that are no device command place nothing. -/
def placeCode (c : Code) (s : State) : State :=
  match c with
  | .word w => placeWord w s
  | .data bytes =>
    match decodeData bytes with
    | .ok .devInit => placeAt .initializeCmd (.data .initWrite 0) s
    | .ok .devMeasure => setFsm .measuring (placeAt (.measure false) (.data .trigger 0) s)
    | .ok .devSoftReset => placeAt .softReset (.data .resetWrite 0) s
    | .ok .devStatus => placeAt .statusRead (.data (.statusWrite false) 0) s
    | _ => s
  | .address b =>
    match decodeAddress b with
    | .busAddressByte a .write => { placeAt .statusRead (.address (.statusWrite false)) s with devAddr := a }
    | .busAddressByte a .read => { placeAt .statusRead (.address (.statusRead false)) s with devAddr := a }
    | _ => s

end Sys2Proof.Machine
end

