-- ==== Sys2Proof/Machine/Step.lean ====
section
/-! DEFINITION. One step of the machine, and the state whose next step runs a given instruction. -/

namespace Sys2Proof.Machine

/-- One step: a move of the world outside or a move of the block (R58, R64, R162). -/
def step (s : State) : Host.Outcome State Fault Refusal :=
  match fetch s with
  | .complete t => .next t
  | .run i t => exec i t
  | .lost => .fault .offSequence

/-- `s` with the instruction of the opcode table's word `w` where the next step finds it (log 12);
a word that encodes nothing changes nothing. -/
def State.withFetchWord (s : State) (nbits w : Nat) : State :=
  match codeOfTableWord nbits w with
  | some c => placeCode c s
  | none => s

end Sys2Proof.Machine
end

