-- ==== Sys2Proof/Machine/Conversion.lean ====
section
/-! DEFINITION. The host-side conversion reference, outside the block: the reading a host computes
from STAT.VALID, RAW_H and RAW_T in exact rationals (R210 to R217). -/

namespace Sys2Proof.Machine

/-- Relative humidity in %RH (R211). -/
def relHumidity (h : Raw) : Rat := (h.toNat : Rat) * 100 / 2 ^ 20

/-- Temperature in °C (R212). -/
def celsius (t : Raw) : Rat := (t.toNat : Rat) * 200 / 2 ^ 20 - 50

/-- Temperature in °F from °C (R214). -/
def fahrenheit (c : Rat) : Rat := c * 9 / 5 + 32

/-- The host-side reading: what `get_humidity_percent` and `get_temperature_celsius` return (R188, R213). -/
structure Reading where
  humidity : Rat
  temperature : Rat
  deriving DecidableEq, Repr

/-- The reading of a block; (0.0, 0.0) until a measurement has succeeded (R213). -/
def reading (s : State) : Reading :=
  if s.stat.valid then { humidity := relHumidity s.rawH, temperature := celsius s.rawT }
  else { humidity := 0, temperature := 0 }

/-- `get_temperature_fahrenheit` in exact rationals (R188, R214). -/
def readingFahrenheit (s : State) : Rat := fahrenheit (reading s).temperature

/-- The expression `celsius * 1.8 + 32` in the host's floating-point format HOST_FLOAT, each literal
and each operation rounded, in this order (R217, log 22). -/
def hostFahrenheit (c : Rat) : Rat :=
  Config.hostRound (Config.hostRound (c * Config.hostRound (9 / 5)) + Config.hostRound 32)

/-- A rational that binary64 holds exactly: a significand below 2^53 over a power of two that the
format reaches (R216). -/
def exactInBinary64 (q : Rat) : Prop := ∃ (m : Int) (k : Nat), m.natAbs < 2 ^ 53 ∧ k ≤ 1074 ∧ q = m / 2 ^ k

end Sys2Proof.Machine
end

