-- ==== Sys2Proof/Safety.lean ====
section
/-! DEFINITION. What the statements speak of beside the machine itself: the invariant of a run, the
grammar of the bus trace (R75, R76), a run without refusal (R11), and the steps of a run. -/

namespace Sys2Proof.Machine

/-! ### The grammar of the trace -/

/-- Where a trace stands: outside a transaction, or inside one after its START, among the bytes of
a write, among the bytes of a read, or where only STOP may follow (R75, R76, R104, R110). -/
inductive TracePhase
  | outside
  | opened
  | sending
  | receiving
  | closing
  deriving DecidableEq, Repr

/-- The bus events each phase admits (R75, R76, R78, R266). -/
def TracePhase.next : TracePhase → BusEvent → Option TracePhase
  | .outside, .start => some .opened
  | .outside, .wait _ => some .outside
  | .opened, .tx b .ack => some (if b.getLsbD 0 then .receiving else .sending)
  | .opened, .tx _ .nack => some .closing
  | .opened, .fail _ => some .closing
  | .sending, .tx _ .ack => some .sending
  | .sending, .tx _ .nack => some .closing
  | .sending, .fail _ => some .closing
  | .sending, .stop => some .outside
  | .receiving, .rx _ .ack => some .receiving
  | .receiving, .rx _ .nack => some .closing
  | .receiving, .fail _ => some .closing
  | .closing, .stop => some .outside
  | _, _ => none

/-- The phase after a whole trace, from outside; none for a trace the framing does not admit. -/
def tracePhase (l : List BusEvent) : Option TracePhase :=
  l.foldl (fun p e => p.bind fun q => q.next e) (some .outside)

/-! ### The sequencer's positions -/

/-- The transactions of each command's pseudocode (R103, R109, R165, R168, R169, R174, R177). -/
def ownsXfer : HostCmd → Xfer → Bool
  | .busWrite, .hostWrite => true
  | .busRead, .hostRead => true
  | .statusRead, .statusWrite again => !again
  | .statusRead, .statusRead again => !again
  | .initializeCmd, .statusWrite _ => true
  | .initializeCmd, .statusRead _ => true
  | .initializeCmd, .initWrite => true
  | .softReset, .resetWrite => true
  | .measure _, .trigger => true
  | .measure c, .frameRead d => c == d
  | _, _ => false

/-- The settle wait of each command (R169, R174, R177, R267). -/
def ownsSettle : HostCmd → Settle → Bool
  | .initializeCmd, .init => true
  | .softReset, .softReset => true
  | .measure _, .measure => true
  | _, _ => false

/-- The error codes a final step of its own ends each command with; MEASURE's other codes come from
its first step and from the step over the frame (R103, R109, R168, R169, R174, R177). -/
def ownsFinal : HostCmd → ErrCode → Bool
  | .measure _, e => e == .transport
  | .initializeCmd, e => e == .none || e == .transport || e == .initNotReady
  | _, e => e == .none || e == .transport

/-- The sequencer positions of a command. -/
def fits (c : HostCmd) : Seq → Bool
  | .idle => false
  | .start x => ownsXfer c x
  | .address x => ownsXfer c x
  | .data x _ => ownsXfer c x
  | .stop x _ => ownsXfer c x
  | .settle w => ownsSettle c w
  | .ticking w => ownsSettle c w
  | .evaluate => c == .measure false || c == .measure true
  | .final e => ownsFinal c e

/-- The trace phase that belongs to a position. -/
def phaseAt : Seq → TracePhase
  | .address _ => .opened
  | .data x _ => match x.dir with
    | .write => .sending
    | .read => .receiving
  | .stop x true => match x.dir with
    | .write => .sending
    | .read => .closing
  | .stop _ false => .closing
  | _ => .outside

/-- The bus phase that belongs to a position (R43, R104, R110). -/
def busAt : Seq → BusPhase
  | .address _ => .inTransaction
  | .data _ _ => .inTransaction
  | .stop _ _ => .inTransaction
  | _ => .idle

/-- MEASURE past its first step: the only time the FSM is MEASURING (R42, R186, R187). -/
def isMeasuring : Option HostCmd → Seq → Bool
  | some (.measure _), .start .trigger => false
  | some (.measure _), _ => true
  | _, _ => false

/-! ### The invariant of a run -/

/-- What holds between any two steps of a run, whatever the device and the host do. -/
structure Inv (s : State) : Prop where
  /-- No command runs exactly when BUSY is 0, `cur` is none and `seq` is IDLE (R26, R43, R236). -/
  atRest : s.cur = none → s.stat.busy = false ∧ s.seq = .idle
  /-- A running command keeps BUSY set and stands at a position of its own pseudocode (R26, R43). -/
  running : ∀ c, s.cur = some c → s.stat.busy = true ∧ fits c s.seq = true
  /-- A byte index is inside its transaction (R60, R104, R110). -/
  inRange : ∀ x i, s.seq = .data x i → i < xferLen s x
  /-- BUS_WRITE and BUS_READ run only with 1 to 7 bytes (R34, R102). -/
  hasLength : ∀ c, s.cur = some c → usesLen c = true → s.len ≠ 0
  /-- A transaction is open exactly from START to STOP (R43, R106). -/
  busPhase : s.bus = busAt s.seq
  /-- The trace keeps the framing of R75 and R76 and stands where the sequencer does (R78, R106). -/
  framing : tracePhase s.trace = some (phaseAt s.seq)
  /-- The FSM reads MEASURING exactly while a MEASURE is past its first step (R42, R186, R187). -/
  measuring : s.stat.fsm = .measuring ↔ isMeasuring s.cur s.seq = true
  /-- MEASURING is never the start state of a command (R187). -/
  startState : s.preFsm ≠ .measuring
  /-- Until its final step a command leaves the FSM at its start state or at MEASURING (R163, R187). -/
  fsmKept : s.cur ≠ none → s.stat.fsm = .measuring ∨ s.stat.fsm = s.preFsm
  /-- DONE, OK and ERR are clear while a command runs (R27, R28, R29). -/
  pending : s.stat.busy = true → s.stat.done = false
  /-- Before the first command is done there is no result (R27, R28, R29). -/
  noResult : s.stat.done = false → s.stat.ok = false ∧ s.stat.err = .none
  /-- OK is 1 exactly for the error code NONE (R28, R236). -/
  result : s.stat.done = true → s.stat.ok = decide (s.stat.err = .none)
  /-- READY is entered only by a success, which sets VALID (R31, R42, R184). -/
  readyValid : s.stat.fsm = .ready → s.stat.valid = true
  /-- Without a success the raw fields hold the construction default (R41, R45). -/
  defaultReading : s.stat.valid = false → s.rawH = 0 ∧ s.rawT = 0
  /-- Ticks are left exactly during a settle wait (R266). -/
  waiting : s.waitLeft ≠ 0 ↔ ∃ w, s.seq = .ticking w

/-! ### Runs -/

/-- No host action of the run so far was refused (R11). -/
def notRefused (s : State) : Prop := s.refused = none

/-- `n` steps of the machine. -/
def runSteps (n : Nat) (s : State) : Host.Outcome State Fault Refusal := Sys2Proof.core.run n s

/-- `t` is reached from `s` by steps of the machine. -/
def Reaches (s t : State) : Prop := ∃ n, runSteps n s = .next t

/-- The block is at rest: no command runs and the bus is free (R26, R43, R262). -/
def AtRest (s : State) : Prop := s.stat.busy = false ∧ s.cur = none ∧ s.seq = .idle ∧ s.bus = .idle

/-- The host makes no access: every step is the block's. -/
def Undisturbed (s : State) : Prop := s.env.inputs = []

/-- The platform's next move, at once, is block reset. -/
def resetPending (s : State) : Bool :=
  match s.env.inputs with
  | (0, .blockReset) :: _ => true
  | _ => false

/-! ### What a transaction leaves in the trace and in RX -/

/-- A write transaction whose every byte is acknowledged (R75, R104). -/
def writeTrace (a : BusAddr) (bytes : List Byte) : List BusEvent :=
  [.start, .tx (addressByte a .write) .ack] ++ bytes.map (fun b => .tx b .ack) ++ [.stop]

/-- A read transaction that succeeds: every byte but the last acknowledged by the block (R76, R110). -/
def readTrace (a : BusAddr) (bytes : List Byte) : List BusEvent :=
  [.start, .tx (addressByte a .read) .ack] ++
    bytes.zipIdx.map (fun p => .rx p.1 (if p.2 + 1 < bytes.length then .ack else .nack)) ++ [.stop]

/-- The event of a byte that ends a transaction: not acknowledged, or the device's FAIL in its place (R101, R104). -/
def badEvent (b : Byte) (noAck : Bool) : BusEvent := if noAck then .tx b .nack else .fail .device

/-- The device answer behind that event. -/
def badAnswer (noAck : Bool) : TxAnswer := if noAck then .nack else .fail

/-- RX after a successful read of these bytes: they fill it from RX[0], the rest is kept (R36). -/
def received (bytes : List Byte) (rx : Vector Byte 7) : Vector Byte 7 :=
  Vector.ofFn fun j : Fin 7 => bytes.getD j.val rx[j]

/-- STAT after a command that ends with `e` (R236), the FSM and VALID apart. -/
def doneStat (t : Stat) (e : ErrCode) : Stat :=
  { t with busy := false, done := true, ok := (match e with | .none => true | _ => false), err := e }

/-- Whether a stall of `n` ticks has reached BUS_TIMEOUT; `none` is never reached (R107). -/
def timeoutReached : Option Nat → Nat → Bool
  | none, _ => false
  | some k, n => decide (k ≤ n)

/-- The state after one byte of a transaction was sent and answered with `r` (R101, R104, R107, R232): the
trace, the sequencer and the stall count move, nothing else. -/
def byteAnswered (x : Xfer) (b : Byte) (next : Seq) (r : TxAnswer) (s : State) : State :=
  match r with
  | .ack => { s with trace := s.trace ++ [.tx b .ack], seq := next, stallTicks := 0 }
  | .nack => { s with trace := s.trace ++ [.tx b .nack], seq := .stop x false, stallTicks := 0 }
  | .fail => { s with trace := s.trace ++ [.fail .device], seq := .stop x false, stallTicks := 0 }
  | .stall =>
    if timeoutReached s.cfg.busTimeout (s.stallTicks + 1) then
      { s with trace := s.trace ++ [.fail .timeout], seq := .stop x false, stallTicks := 0 }
    else { s with stallTicks := s.stallTicks + 1 }

end Sys2Proof.Machine
end

