-- ==== Sys2Proof/Certificates/Slice0/Obligations.lean ====
section
/-! DEFINITION. The statements for the provers. Each docstring names the rule of spec/ it formalises. -/

open Sys2Proof Sys2Proof.Machine

/-! ### Encoding -/

/-- The decoder and the encoder are inverse to each other on every encoding and every instruction. -/
def Obligations.DecodeEncodeAgree : Prop :=
  ∀ (c : Code) (i : Instr), decode c = .ok i ↔ c = encode i

/-- R71: a command word decodes by its three fields, read as numbers: bits 31:4 must be 0, OP 0 and 7
are reserved, CRC_EN belongs to MEASURE alone; otherwise OP names the command. -/
def Obligations.CommandWordFields : Prop :=
  ∀ v : Word,
    (v.toNat / 16 ≠ 0 → decodeWord v = .error .reservedBits) ∧
    (v.toNat / 16 = 0 → (v.toNat % 8 = 0 ∨ v.toNat % 8 = 7) → decodeWord v = .error .reservedOpcode) ∧
    (v.toNat / 16 = 0 → v.toNat % 8 ≠ 0 → v.toNat % 8 ≠ 7 → v.toNat % 8 ≠ 6 → v.toNat / 8 % 2 = 1 →
      decodeWord v = .error .crcEnWithoutMeasure) ∧
    (v.toNat / 16 = 0 → v.toNat / 8 % 2 = 0 →
      (v.toNat % 8 = 1 → decodeWord v = .ok .busWrite) ∧
      (v.toNat % 8 = 2 → decodeWord v = .ok .busRead) ∧
      (v.toNat % 8 = 3 → decodeWord v = .ok .statusRead) ∧
      (v.toNat % 8 = 4 → decodeWord v = .ok .initializeCmd) ∧
      (v.toNat % 8 = 5 → decodeWord v = .ok .softReset) ∧
      (v.toNat % 8 = 6 → decodeWord v = .ok (.measure false))) ∧
    (v.toNat / 16 = 0 → v.toNat / 8 % 2 = 1 → v.toNat % 8 = 6 → decodeWord v = .ok (.measure true))

/-- R73: writing a reserved or illegal word to CMD of an idle block is refused and changes no register
and nothing else of the block; only the mark is set and the access is used up.
The access is the head of the inputs (log 2), the mark is log 1. -/
def Obligations.IllegalWordChangesNothing : Prop :=
  ∀ (s : State) (v : Word) (rest : List (Nat × HostAction)),
    s.env.inputs = (0, .write 4 0x00 v) :: rest → s.stat.busy = false →
    (v.toNat / 16 ≠ 0 ∨ v.toNat % 8 = 0 ∨ v.toNat % 8 = 7 ∨ (v.toNat / 8 % 2 = 1 ∧ v.toNat % 8 ≠ 6)) →
    ∃ m, step s = .next { s with refused := some m, env := { s.env with inputs := rest } }

/-- Words and bytes written out from R71 and R79 decode to the rows they stand for (a sanity check). -/
def Obligations.ListedEncodingsDecode : Prop :=
  decode (.word 0x00000001) = .ok .busWrite ∧ decode (.word 0x00000002) = .ok .busRead ∧
  decode (.word 0x00000004) = .ok .initializeCmd ∧ decode (.word 0x0000000E) = .ok (.measure true) ∧
  decode (.data [0xBE, 0x08, 0x00]) = .ok .devInit ∧ decode (.data [0x71]) = .ok .devStatus ∧
  decode (.address 0x70) = .ok (.busAddressByte 0x38 .write) ∧
  decode (.address 0x71) = .ok (.busAddressByte 0x38 .read)

/-! ### What a step runs -/

/-- A host write of a legal word to CMD of an idle block runs the instruction it decodes to, on the
state with that access used up.
The access is the head of the inputs (log 2); the word is exec of the issuing role (log 25). -/
def Obligations.StepRunsTheWrittenCommand : Prop :=
  ∀ (s : State) (v : Word) (c : HostCmd) (rest : List (Nat × HostAction)),
    s.env.inputs = (0, .write 4 0x00 v) :: rest → s.stat.busy = false → decodeWord v = .ok c →
    step s = exec c.toInstr { s with env := { s.env with inputs := rest } }

/-- A block step of a busy block runs the row its sequencer stands at: the address byte, the data
bytes of a device command, or else the latched command; the host's next access comes one step nearer.
Which row owns a step is the model's reading (logs 25, 29), the distance to the host log 2. -/
def Obligations.StepRunsTheSequencerRow : Prop :=
  ∀ (s u : State) (i : Instr), s.stat.busy = true →
    (s.env.inputs = [] ∧ u = s ∨
      ∃ n a rest, s.env.inputs = (n + 1, a) :: rest ∧
        u = { s with env := { s.env with inputs := (n, a) :: rest } }) →
    ((∃ x, s.seq = .address x ∧ i = .busAddressByte s.devAddr x.dir) ∨
      (∃ again j, s.seq = .data (.statusWrite again) j ∧ i = .devStatus) ∨
      (∃ j, s.seq = .data .initWrite j ∧ i = .devInit) ∨
      (∃ j, s.seq = .data .resetWrite j ∧ i = .devSoftReset) ∨
      (∃ j, s.seq = .data .trigger j ∧ i = .devMeasure) ∨
      (∃ c, s.cur = some c ∧ i = c.toInstr ∧ (∀ x, s.seq ≠ .address x) ∧
        ∀ x j, s.seq = .data x j → x = .hostWrite ∨ x.dir = .read)) →
    step s = exec i u

/-- An idle block waits: a step of it that no host access takes changes nothing but the host's distance.
That an idle block has a step at all is the model's (logs 2, 15). -/
def Obligations.IdleBlockWaits : Prop :=
  ∀ s : State, s.stat.busy = false →
    (s.env.inputs = [] → step s = .next s) ∧
    (∀ n a rest, s.env.inputs = (n + 1, a) :: rest →
      step s = .next { s with env := { s.env with inputs := (n, a) :: rest } })

/-- The word of any opcode-table row, placed by withFetchWord, is what the very next step runs.
The placement is the model's (logs 11, 12). -/
def Obligations.PlacedWordRunsNext : Prop :=
  ∀ (s : State) (nbits w : Nat) (i : Instr), decodeTableWord nbits w = some i →
    ∃ u, fetch (s.withFetchWord nbits w) = .run i u ∧ step (s.withFetchWord nbits w) = exec i u

/-! ### Reset -/

/-- R45: every register and hidden element of the state after block reset. -/
def Obligations.ResetValues : Prop :=
  (∀ r, readReg r State.reset = if r = .addr then 0x00000038 else 0x00000000) ∧
  State.reset.stat = { busy := false, done := false, ok := false, err := .none, fsm := .uninitialized, valid := false } ∧
  State.reset.cur = none ∧ State.reset.seq = .idle ∧ State.reset.preFsm = .uninitialized ∧
  State.reset.bus = .idle ∧ State.reset.waitLeft = 0 ∧ State.reset.trace = []

/-- R260: block reset, from any state and in the middle of anything, gives every register its reset
value, clears the sequencer and the trace and releases the bus without a bus event. (That it keeps
the refused mark, the parameters and the inputs to come is the model's choice, log 19.) -/
def Obligations.BlockResetFromAnyState : Prop :=
  ∀ (s : State) (rest : List (Nat × HostAction)), s.env.inputs = (0, .blockReset) :: rest →
    step s = .next { State.reset with
      refused := s.refused, cfg := s.cfg, env := { s.env with inputs := rest } }

/-! ### The host register space -/

/-- The fields of STAT stand where the table of 10_state.md section 2.2 puts them, with the codes of R42
and R231; bits 3, 7 and 31:11 read as 0 at all times (R32). -/
def Obligations.StatusFieldsInPlace : Prop :=
  ∀ s : State,
    (∀ i, i = 3 ∨ i = 7 ∨ (11 ≤ i ∧ i ≤ 31) → (readReg .stat s).getLsbD i = false) ∧
    (readReg .stat s).getLsbD 0 = s.stat.busy ∧ (readReg .stat s).getLsbD 1 = s.stat.done ∧
    (readReg .stat s).getLsbD 2 = s.stat.ok ∧ (readReg .stat s).getLsbD 10 = s.stat.valid ∧
    (readReg .stat s).toNat / 16 % 8 = (match s.stat.err with
      | .none => 0 | .transport => 1 | .notCalibrated => 2 | .deviceBusy => 3 | .integrity => 4 | .initNotReady => 5) ∧
    (readReg .stat s).toNat / 256 % 4 = (match s.stat.fsm with
      | .uninitialized => 0 | .calibrated => 1 | .measuring => 2 | .ready => 3)

/-- R63: buffer byte i is at bits 8*(i mod 4)+7 : 8*(i mod 4) of the first register for i below 4 and
of the second above; the top lane of the second reads 0. -/
def Obligations.BufferLanesLittleEndian : Prop :=
  ∀ s : State, ∀ i : Fin 7,
    ((readReg (if i.val < 4 then .txd0 else .txd1) s).extractLsb' (8 * (i.val % 4)) 8 = s.tx[i]) ∧
    ((readReg (if i.val < 4 then .rxd0 else .rxd1) s).extractLsb' (8 * (i.val % 4)) 8 = s.rx[i]) ∧
    (readReg .txd1 s).extractLsb' 24 8 = 0 ∧ (readReg .rxd1 s).extractLsb' 24 8 = 0

/-- A legal write of an idle block's ADDR, LEN, TXD0 or TXD1 stores exactly the register's fields: the
register then reads as the value with its reserved bits 0, every other register as before, and
nothing else of the block changes (R33, R34, R35, R56).
The access is the head of the inputs (log 2). -/
def Obligations.HostWriteStoresFields : Prop :=
  ∀ (s : State) (v : Word) (r : RegName) (mask : Word) (rest : List (Nat × HostAction)),
    (r = .addr ∧ mask = 0x7F ∨ r = .len ∧ mask = 0x7 ∨ r = .txd0 ∧ mask = 0xFFFFFFFF ∨ r = .txd1 ∧ mask = 0x00FFFFFF) →
    s.env.inputs = (0, .write 4 (regOffset r) v) :: rest → s.stat.busy = false →
    ∃ t, step s = .next t ∧ readReg r t = v &&& mask ∧ (∀ q, q ≠ r → readReg q t = readReg q s) ∧
      t = { s with devAddr := t.devAddr, len := t.len, tx := t.tx, env := { s.env with inputs := rest } }

/-- A host read of a mapped register returns its value, or any value for RXD0 and RXD1 while busy, and
changes nothing of the block (R46, R56, R57); CMD reads 0 (R25).
The access and what it returned stand in the environment (logs 2, 20). -/
def Obligations.HostReadReturnsAndChangesNothing : Prop :=
  ∀ (s : State) (r : RegName) (rest : List (Nat × HostAction)),
    s.env.inputs = (0, .read 4 (regOffset r)) :: rest →
    ∃ v n, step s = .next { s with env := { s.env with
        inputs := rest, draws := n, hostReads := s.env.hostReads ++ [{ off := regOffset r, value := v }] } } ∧
      (s.stat.busy = false ∨ (r ≠ .rxd0 ∧ r ≠ .rxd1) → v = readReg r s ∧ n = s.env.draws) ∧
      (r = .cmd → v = 0)

/-- R55: while BUSY is 1 a host write of CMD, ADDR, LEN, TXD0 or TXD1 is refused and changes nothing
else; reads of every register stay legal.
The access is the head of the inputs (log 2), the mark keeps its first reason (log 1). -/
def Obligations.BusyBlockRefusesWrites : Prop :=
  ∀ (s : State) (rest : List (Nat × HostAction)), s.stat.busy = true →
    (∀ r v, (r = .cmd ∨ r = .addr ∨ r = .len ∨ r = .txd0 ∨ r = .txd1) →
      s.env.inputs = (0, .write 4 (regOffset r) v) :: rest →
      step s = .next { s with refused := some (s.refused.getD .busy), env := { s.env with inputs := rest } }) ∧
    (∀ r, s.env.inputs = (0, .read 4 (regOffset r)) :: rest → ∃ t, step s = .next t ∧ t.refused = s.refused)

/-- R52, R53, R54: a host access of another width than 32 bits, at an offset that is no multiple of 4
or not mapped, and a write of a read-only register are refused, and change nothing else.
The access is the head of the inputs (log 2), its size a byte count (log 23), the mark log 1. -/
def Obligations.IllegalAccessRefused : Prop :=
  ∀ (s : State) (a : HostAction) (rest : List (Nat × HostAction)),
    s.env.inputs = (0, a) :: rest →
    ((∃ size off, (size ≠ 4 ∨ off.toNat % 4 ≠ 0 ∨ 0x30 ≤ off.toNat) ∧
        (a = .read size off ∨ ∃ v, a = .write size off v)) ∨
      (∃ r v, (r = .stat ∨ r = .rxd0 ∨ r = .rxd1 ∨ r = .devstat ∨ r = .crcr ∨ r = .rawH ∨ r = .rawT) ∧
        a = .write 4 (regOffset r) v)) →
    ∃ m, step s = .next { s with refused := some m, env := { s.env with inputs := rest } }

/-! ### Issuing a command -/

/-- R160: a legal word written to CMD of an idle block latches the command, saves the FSM, sets BUSY,
clears DONE, OK and ERR and starts the sequencer, in one step; a transfer command with LEN.N = 0
is refused and changes nothing else (R102).
That the idle block issues when exec meets the word is log 25, the mark log 1. -/
def Obligations.IssueStartsTheCommand : Prop :=
  ∀ (s : State) (c : HostCmd), s.stat.busy = false →
    (((c = .busWrite ∨ c = .busRead) ∧ s.len = 0) →
      exec c.toInstr s = .next { s with refused := some (s.refused.getD .zeroLength) }) ∧
    (¬ ((c = .busWrite ∨ c = .busRead) ∧ s.len = 0) →
      exec c.toInstr s = .next { s with
        cur := some c
        preFsm := s.stat.fsm
        stat := { s.stat with busy := true, done := false, ok := false, err := .none }
        seq := .start (match c with
          | .busWrite => .hostWrite
          | .busRead => .hostRead
          | .statusRead => .statusWrite false
          | .initializeCmd => .statusWrite false
          | .softReset => .resetWrite
          | .measure _ => .trigger) })

/-! ### One byte on the bus -/

/-- BUS_ADDRESS_BYTE: at the address position of any transaction the row sends (a7 << 1) | r, with r
0 for a write and 1 for a read (R77), and the device's answer decides what follows; an ACK leads to
the first data byte (R104, R110).
Answers are draws from the environment (log 3), a stalled step is one tick (log 9). -/
def Obligations.AddressByteSent : Prop :=
  ∀ (s : State) (x : Xfer) (a : BusAddr), s.seq = .address x → 0 < xferLen s x →
    exec (.busAddressByte a x.dir) s =
      .next (byteAnswered x (BitVec.ofNat 8 (2 * a.toNat + if x.dir = .read then 1 else 0))
        (.data x 0) (drawTx s).1 (drawTx s).2)

/-- The four device-command rows: each sends the bytes of R79 in order as the data of its
transaction, and the last one is followed by STOP.
Answers are draws from the environment (log 3), a stalled step is one tick (log 9); the row is the data bytes (log 29). -/
def Obligations.DeviceCommandBytesSent : Prop :=
  ∀ s : State,
    (∀ i, i < 3 → s.seq = .data .initWrite i →
      exec .devInit s = .next (byteAnswered .initWrite ([0xBE, 0x08, 0x00].getD i 0)
        (if i < 2 then .data .initWrite (i + 1) else .stop .initWrite true) (drawTx s).1 (drawTx s).2)) ∧
    (∀ i, i < 3 → s.seq = .data .trigger i →
      exec .devMeasure s = .next (byteAnswered .trigger ([0xAC, 0x33, 0x00].getD i 0)
        (if i < 2 then .data .trigger (i + 1) else .stop .trigger true) (drawTx s).1 (drawTx s).2)) ∧
    (s.seq = .data .resetWrite 0 →
      exec .devSoftReset s = .next (byteAnswered .resetWrite 0xBA (.stop .resetWrite true) (drawTx s).1 (drawTx s).2)) ∧
    (∀ again, s.seq = .data (.statusWrite again) 0 →
      exec .devStatus s = .next (byteAnswered (.statusWrite again) 0x71 (.stop (.statusWrite again) true)
        (drawTx s).1 (drawTx s).2))

/-- R107: while the device stalls where it should answer a sent byte or send one and BUS_TIMEOUT is none,
any number of steps leaves the block where it is, busy, with nothing on the bus; with BUS_TIMEOUT = k,
k stalled ticks end the step as FAIL, and the trace shows that it was a timeout (R232, log 30). (That a
stalled step is one tick is the model's reading, log 9.) -/
def Obligations.StallHoldsUntilTimeout : Prop :=
  ∀ (s : State) (c : HostCmd) (x : Xfer) (k : Nat) (l : List TxAnswer) (m : List RxAnswer),
    Undisturbed s → s.stat.busy = true → s.cur = some c → ownsXfer c x = true → s.stallTicks = 0 →
    ((s.seq = .address x ∨ ∃ i, s.seq = .data x i ∧ x.dir = .write) ∧
        s.env.txAnswers = List.replicate k .stall ++ l ∧ s.env.rxAnswers = m ∨
      (∃ i, s.seq = .data x i ∧ x.dir = .read) ∧
        s.env.txAnswers = l ∧ s.env.rxAnswers = List.replicate k .stall ++ m) →
    (s.cfg.busTimeout = none →
      runSteps k s = .next { s with stallTicks := k, env := { s.env with txAnswers := l, rxAnswers := m } }) ∧
    (s.cfg.busTimeout = some k → 0 < k →
      runSteps k s = .next { s with
        trace := s.trace ++ [.fail .timeout], seq := .stop x false
        env := { s.env with txAnswers := l, rxAnswers := m } })

/-! ### BUS_WRITE and BUS_READ -/

/-- BUS_WRITE (R103, R104): with every byte acknowledged it sends the address byte and TX[0..N-1] in
one transaction and ends with NONE; only STAT, and what R43 hides, changes.
The answers are listed as log 3 says; the final step is its own (log 7). -/
def Obligations.BusWriteSendsTheBuffer : Prop :=
  ∀ (s : State) (l : List TxAnswer), AtRest s → Undisturbed s → s.len ≠ 0 →
    s.env.txAnswers = List.replicate (s.len.toNat + 1) .ack ++ l →
    ∃ u, exec .busWrite s = .next u ∧
      runSteps (s.len.toNat + 4) u = .next { s with
        stat := doneStat s.stat .none
        trace := s.trace ++ writeTrace s.devAddr (s.tx.toList.take s.len.toNat)
        preFsm := s.stat.fsm
        stallTicks := 0
        env := { s.env with txAnswers := l } }

/-- BUS_WRITE whose address byte or any data byte is not acknowledged, or answered FAIL (R105): the
transaction still ends with STOP (R106), nothing is repeated (R108), and the command ends with
TRANSPORT.
Answers: log 3. FAIL, STOP and the final step are three steps (logs 6, 7). -/
def Obligations.BusWriteFailsAtAnyByte : Prop :=
  ∀ (s : State) (k : Nat) (noAck : Bool) (l : List TxAnswer), AtRest s → Undisturbed s → s.len ≠ 0 →
    k ≤ s.len.toNat → s.env.txAnswers = List.replicate k .ack ++ badAnswer noAck :: l →
    ∃ u, exec .busWrite s = .next u ∧
      runSteps (k + 4) u = .next { s with
        stat := doneStat s.stat .transport
        trace := s.trace ++ [.start] ++
          ((addressByte s.devAddr .write :: s.tx.toList.take s.len.toNat).take k).map (fun b => .tx b .ack) ++
          [badEvent ((addressByte s.devAddr .write :: s.tx.toList.take s.len.toNat).getD k 0) noAck, .stop]
        preFsm := s.stat.fsm
        stallTicks := 0
        env := { s.env with txAnswers := l } }

/-- BUS_READ (R109, R110): it reads N bytes into RX[0..N-1] in bus order, keeps RX[N..6], and ends with
NONE; only RX, STAT, and what R43 hides, changes.
The answers are listed as log 3 says; the final step is its own (log 7). -/
def Obligations.BusReadFillsTheBuffer : Prop :=
  ∀ (s : State) (bytes : List Byte) (l : List TxAnswer) (m : List RxAnswer), AtRest s → Undisturbed s →
    s.len ≠ 0 → bytes.length = s.len.toNat → s.env.txAnswers = .ack :: l →
    s.env.rxAnswers = bytes.map .byte ++ m →
    ∃ u, exec .busRead s = .next u ∧
      runSteps (s.len.toNat + 4) u = .next { s with
        stat := doneStat s.stat .none
        rx := received bytes s.rx
        trace := s.trace ++ readTrace s.devAddr bytes
        preFsm := s.stat.fsm
        stallTicks := 0
        env := { s.env with txAnswers := l, rxAnswers := m } }

/-- BUS_READ that fails at the address byte or at any data byte (R111): STOP, TRANSPORT, RX[N..6] kept,
and RX[0..N-1] hold any value (R36).
Answers: log 3. FAIL, STOP and the final step are three steps (logs 6, 7). -/
def Obligations.BusReadFailsAtAnyByte : Prop :=
  ∀ (s : State), AtRest s → Undisturbed s → s.len ≠ 0 →
    (∀ noAck l, s.env.txAnswers = badAnswer noAck :: l →
      ∃ u t, exec .busRead s = .next u ∧ runSteps 4 u = .next t ∧
        t = { s with
          stat := doneStat s.stat .transport, rx := t.rx, preFsm := s.stat.fsm, stallTicks := 0, env := t.env
          trace := s.trace ++ [.start, badEvent (addressByte s.devAddr .read) noAck, .stop] } ∧
        ∀ j : Fin 7, s.len.toNat ≤ j.val → t.rx[j] = s.rx[j]) ∧
    (∀ (bytes : List Byte) l m, bytes.length < s.len.toNat → s.env.txAnswers = .ack :: l →
      s.env.rxAnswers = bytes.map .byte ++ .fail :: m →
      ∃ u t, exec .busRead s = .next u ∧ runSteps (bytes.length + 5) u = .next t ∧
        t = { s with
          stat := doneStat s.stat .transport, rx := t.rx, preFsm := s.stat.fsm, stallTicks := 0, env := t.env
          trace := s.trace ++ [.start, .tx (addressByte s.devAddr .read) .ack] ++
            bytes.map (fun d => .rx d .ack) ++ [.fail .device, .stop] } ∧
        ∀ j : Fin 7, s.len.toNat ≤ j.val → t.rx[j] = s.rx[j])

/-! ### STATUS_READ and INITIALIZE -/

/-- STATUS_READ (R168): the STATUS command, then a 1-byte read with no wait between; the byte goes to
DEVSTAT and RX[0], the command ends with NONE and the FSM does not change.
Answers: log 3; the final step is its own (log 7). -/
def Obligations.StatusReadStoresTheStatusByte : Prop :=
  ∀ (s : State) (b : Byte) (l : List TxAnswer) (m : List RxAnswer), AtRest s → Undisturbed s →
    s.env.txAnswers = .ack :: .ack :: .ack :: l → s.env.rxAnswers = .byte b :: m →
    ∃ u, exec .statusRead s = .next u ∧
      runSteps 9 u = .next { s with
        stat := doneStat s.stat .none
        rx := received [b] s.rx
        devstat := b
        trace := s.trace ++ writeTrace s.devAddr [0x71] ++ readTrace s.devAddr [b]
        preFsm := s.stat.fsm
        stallTicks := 0
        env := { s.env with txAnswers := l, rxAnswers := m } }

/-- R167: what a failed status read, of which the write or the read failed, leads to. Its STOP frees the
bus. With PROPAGATE DEVSTAT is kept and the next step is the final one, with TRANSPORT. With AS_ZERO
DEVSTAT is 0x00 and the command goes on: the next step ends STATUS_READ with NONE; INITIALIZE sends INIT
after its first status read, and after its second the next step ends it with INIT_NOT_READY and the FSM
UNINITIALIZED (R172). RX is kept but for RX[0] after a failed read (R36).
That the STOP step takes the branch is log 8, that the final step is its own log 7. -/
def Obligations.FailedStatusReadFollowsThePolicy : Prop :=
  ∀ (s : State) (again : Bool) (x : Xfer), (x = .statusWrite again ∨ x = .statusRead again) →
    s.stat.busy = true → s.seq = .stop x false →
    (s.cur = some .statusRead → again = false → ∃ t, exec .statusRead s = .next t ∧
      t = { s with trace := s.trace ++ [.stop], bus := .idle, seq := t.seq, devstat := t.devstat, rx := t.rx
                   env := { s.env with draws := t.env.draws } } ∧
      (∀ j : Fin 7, (x = .statusWrite again ∨ 1 ≤ j.val) → t.rx[j] = s.rx[j]) ∧
      (s.cfg.statusFailPolicy = .propagate → t.devstat = s.devstat ∧ t.seq = .final .transport ∧
        exec .statusRead t = .next { t with stat := doneStat s.stat .transport, cur := none, seq := .idle }) ∧
      (s.cfg.statusFailPolicy = .asZero → t.devstat = 0x00 ∧ t.seq = .final .none ∧
        exec .statusRead t = .next { t with stat := doneStat s.stat .none, cur := none, seq := .idle })) ∧
    (s.cur = some .initializeCmd → ∃ t, exec .initializeCmd s = .next t ∧
      t = { s with trace := s.trace ++ [.stop], bus := .idle, seq := t.seq, devstat := t.devstat, rx := t.rx
                   env := { s.env with draws := t.env.draws } } ∧
      (∀ j : Fin 7, (x = .statusWrite again ∨ 1 ≤ j.val) → t.rx[j] = s.rx[j]) ∧
      (s.cfg.statusFailPolicy = .propagate → t.devstat = s.devstat ∧ t.seq = .final .transport ∧
        exec .initializeCmd t = .next { t with
          stat := { doneStat s.stat .transport with
            fsm := if s.cfg.teToUninit then .uninitialized else s.preFsm }, cur := none, seq := .idle }) ∧
      (s.cfg.statusFailPolicy = .asZero → t.devstat = 0x00 ∧
        (again = false → t.seq = .start .initWrite) ∧
        (again = true → t.seq = .final .initNotReady ∧
          exec .initializeCmd t = .next { t with
            stat := { doneStat s.stat .initNotReady with fsm := .uninitialized }, cur := none, seq := .idle })))

/-- R170: when the first status read shows the ready bit, INITIALIZE sends no INIT command and does not
wait: one STATUS write, one 1-byte read, the FSM CALIBRATED from any start state.
Answers: log 3; the final step is its own (log 7), the branch is taken in the STOP step (log 8). -/
def Obligations.InitializeWhenAlreadyReady : Prop :=
  ∀ (s : State) (b : Byte) (l : List TxAnswer) (m : List RxAnswer), AtRest s → Undisturbed s →
    s.env.txAnswers = .ack :: .ack :: .ack :: l → s.env.rxAnswers = .byte b :: m → b.getLsbD 3 = true →
    ∃ u, exec .initializeCmd s = .next u ∧
      runSteps 9 u = .next { s with
        stat := { doneStat s.stat .none with fsm := .calibrated }
        rx := received [b] s.rx
        devstat := b
        trace := s.trace ++ writeTrace s.devAddr [0x71] ++ readTrace s.devAddr [b]
        preFsm := s.stat.fsm
        stallTicks := 0
        env := { s.env with txAnswers := l, rxAnswers := m } }

/-- R171, R172: when the first status read shows the ready bit clear, INITIALIZE sends INIT, waits at
least 10 ms, reads the Status Byte again with nothing between on the bus, and ends CALIBRATED with
NONE or UNINITIALIZED with INIT_NOT_READY, by the second byte's ready bit.
Answers and wait length: log 3; step boundaries: logs 7, 8, 18. -/
def Obligations.InitializeSendsInitAndReadsAgain : Prop :=
  ∀ (s : State) (b1 b2 : Byte) (e : Nat) (w : List Nat) (l : List TxAnswer) (m : List RxAnswer),
    AtRest s → Undisturbed s → s.waitLeft = 0 → s.env.txAnswers = List.replicate 10 .ack ++ l →
    s.env.rxAnswers = .byte b1 :: .byte b2 :: m → s.env.waitExtras = e :: w → b1.getLsbD 3 = false →
    ∃ u, exec .initializeCmd s = .next u ∧
      runSteps (24 + (10 * s.cfg.ticksPerMs + e)) u = .next { s with
        stat := if b2.getLsbD 3 then { doneStat s.stat .none with fsm := .calibrated }
          else { doneStat s.stat .initNotReady with fsm := .uninitialized }
        rx := received [b2] s.rx
        devstat := b2
        trace := s.trace ++ writeTrace s.devAddr [0x71] ++ readTrace s.devAddr [b1] ++
          writeTrace s.devAddr [0xBE, 0x08, 0x00] ++ [.wait 10] ++
          writeTrace s.devAddr [0x71] ++ readTrace s.devAddr [b2]
        preFsm := s.stat.fsm
        stallTicks := 0
        env := { s.env with txAnswers := l, rxAnswers := m, waitExtras := w } }

/-- R163, R169, R177: the transport-error exit of INITIALIZE and MEASURE, from the STOP of the failed
transaction to the end. The STOP of a failed INIT write, a failed trigger or a failed frame read frees
the bus and leads to the final step, with no settle wait; it changes no register but RX[0..n-1] of the
frame read (R36). (Failed status reads: FailedStatusReadFollowsThePolicy.) The final step ends the command with
TRANSPORT and the FSM UNINITIALIZED if TE_TO_UNINIT, else CALIBRATED for MEASURE and the start state for
INITIALIZE. STATUS_READ at its final step ends with that step's code and keeps the FSM (R168).
That the final step is a step of its own after STOP is log 7. -/
def Obligations.TransportErrorExit : Prop :=
  ∀ (s : State), s.stat.busy = true →
    (s.cur = some .initializeCmd → s.seq = .stop .initWrite false →
      exec .initializeCmd s = .next { s with
        trace := s.trace ++ [.stop], bus := .idle, seq := .final .transport }) ∧
    (∀ c, s.cur = some (.measure c) → s.seq = .stop .trigger false →
      exec (.measure c) s = .next { s with
        trace := s.trace ++ [.stop], bus := .idle, seq := .final .transport }) ∧
    (∀ c, s.cur = some (.measure c) → s.seq = .stop (.frameRead c) false →
      ∃ t, exec (.measure c) s = .next t ∧
        t = { s with trace := s.trace ++ [.stop], bus := .idle, seq := .final .transport, rx := t.rx
                     env := { s.env with draws := t.env.draws } } ∧
        ∀ j : Fin 7, (if c then 7 else 6) ≤ j.val → t.rx[j] = s.rx[j]) ∧
    (s.cur = some .initializeCmd → s.seq = .final .transport →
      exec .initializeCmd s = .next { s with
        stat := { doneStat s.stat .transport with
          fsm := if s.cfg.teToUninit then .uninitialized else s.preFsm }, cur := none, seq := .idle }) ∧
    (∀ c, s.cur = some (.measure c) → s.seq = .final .transport →
      exec (.measure c) s = .next { s with
        stat := { doneStat s.stat .transport with
          fsm := if s.cfg.teToUninit then .uninitialized else .calibrated }, cur := none, seq := .idle }) ∧
    (∀ e, s.cur = some .statusRead → s.seq = .final e →
      exec .statusRead s = .next { s with stat := doneStat s.stat e, cur := none, seq := .idle })

/-! ### SOFT_RESET -/

/-- SOFT_RESET (R174): it sends 0xBA, waits at least 20 ms and leaves the FSM UNINITIALIZED; every other
register keeps its value (R176).
Answers and wait length: log 3; step boundaries: logs 7, 18. -/
def Obligations.SoftResetSendsAndWaits : Prop :=
  ∀ (s : State) (e : Nat) (w : List Nat) (l : List TxAnswer), AtRest s → Undisturbed s → s.waitLeft = 0 →
    s.env.txAnswers = .ack :: .ack :: l → s.env.waitExtras = e :: w →
    ∃ u, exec .softReset s = .next u ∧
      runSteps (6 + (20 * s.cfg.ticksPerMs + e)) u = .next { s with
        stat := { doneStat s.stat .none with fsm := .uninitialized }
        trace := s.trace ++ writeTrace s.devAddr [0xBA] ++ [.wait 20]
        preFsm := s.stat.fsm
        stallTicks := 0
        env := { s.env with txAnswers := l, waitExtras := w } }

/-- R175: when the SOFT_RESET write fails, at either byte, there is no wait; the FSM is UNINITIALIZED
whatever TE_TO_UNINIT says, and the command ends with TRANSPORT.
Answers: log 3; step boundaries: logs 6, 7. -/
def Obligations.SoftResetFailureSkipsTheWait : Prop :=
  ∀ (s : State) (k : Nat) (noAck : Bool) (l : List TxAnswer), AtRest s → Undisturbed s → k ≤ 1 →
    s.env.txAnswers = List.replicate k .ack ++ badAnswer noAck :: l →
    ∃ u, exec .softReset s = .next u ∧
      runSteps (k + 4) u = .next { s with
        stat := { doneStat s.stat .transport with fsm := .uninitialized }
        trace := s.trace ++ [.start] ++
          ([addressByte s.devAddr .write, 0xBA].take k).map (fun b => .tx b .ack) ++
          [badEvent ([addressByte s.devAddr .write, 0xBA].getD k 0) noAck, .stop]
        preFsm := s.stat.fsm
        stallTicks := 0
        env := { s.env with txAnswers := l } }

/-! ### MEASURE -/

/-- R179: MEASURE issued in UNINITIALIZED ends at once with NOT_CALIBRATED: no bus event, no wait,
nothing but STAT (and the hidden pre_fsm) written.
That the exit is the first block step after the issue is log 10; pre_fsm keeps its value (log 26). -/
def Obligations.MeasureNeedsCalibration : Prop :=
  ∀ (s : State) (c : Bool), AtRest s → Undisturbed s → s.stat.fsm = .uninitialized →
    ∃ u, exec (.measure c) s = .next u ∧
      step u = .next { s with stat := doneStat s.stat .notCalibrated, preFsm := .uninitialized }

/-- R182: the final step over the received frame checks the busy bit first, and only then, with CRC_EN,
the CRC; after either failure the FSM is CALIBRATED and RAW_H, RAW_T and VALID keep their values. -/
def Obligations.FrameFailuresInOrder : Prop :=
  ∀ (s : State) (c : Bool), s.stat.busy = true → s.cur = some (.measure c) → s.seq = .evaluate →
    (s.rx[0].getLsbD 7 = true →
      exec (.measure c) s = .next { s with
        devstat := s.rx[0], stat := { doneStat s.stat .deviceBusy with fsm := .calibrated }
        cur := none, seq := .idle }) ∧
    (s.rx[0].getLsbD 7 = false → c = true →
      crc8 [s.rx[0], s.rx[1], s.rx[2], s.rx[3], s.rx[4], s.rx[5]] ≠ s.rx[6] →
      exec (.measure c) s = .next { s with
        devstat := s.rx[0], stat := { doneStat s.stat .integrity with fsm := .calibrated }
        crcCalc := crc8 [s.rx[0], s.rx[1], s.rx[2], s.rx[3], s.rx[4], s.rx[5]], crcRecv := s.rx[6]
        cur := none, seq := .idle })

/-- R184: on success the final step writes RAW_H, RAW_T, VALID and READY together with finish(NONE);
CRCR is written exactly with CRC_EN (R38). -/
def Obligations.FrameSuccessWritesTheReading : Prop :=
  ∀ (s : State) (c : Bool), s.stat.busy = true → s.cur = some (.measure c) → s.seq = .evaluate →
    s.rx[0].getLsbD 7 = false →
    (c = true → crc8 [s.rx[0], s.rx[1], s.rx[2], s.rx[3], s.rx[4], s.rx[5]] = s.rx[6]) →
    exec (.measure c) s = .next { s with
      devstat := s.rx[0]
      crcCalc := if c then s.rx[6] else s.crcCalc
      crcRecv := if c then s.rx[6] else s.crcRecv
      rawH := s.rx[1] ++ s.rx[2] ++ s.rx[3].extractLsb' 4 4
      rawT := s.rx[3].extractLsb' 0 4 ++ s.rx[4] ++ s.rx[5]
      stat := { doneStat s.stat .none with fsm := .ready, valid := true }
      cur := none, seq := .idle }

/-- MEASURE from CALIBRATED or READY, the trigger acknowledged and a frame received (R177): trigger,
settle wait of at least 80 ms, frame read of 6 or 7 bytes with nothing between on the bus, and one
final step whose outcome the frame's busy bit and CRC decide.
Answers and wait length: log 3; step boundaries: logs 7, 18. -/
def Obligations.MeasureRunsToItsOutcome : Prop :=
  ∀ (s : State) (c : Bool) (f : Vector Byte 7) (e : Nat) (w : List Nat) (l : List TxAnswer) (m : List RxAnswer),
    AtRest s → Undisturbed s → s.waitLeft = 0 → (s.stat.fsm = .calibrated ∨ s.stat.fsm = .ready) →
    s.env.txAnswers = List.replicate 5 .ack ++ l → s.env.waitExtras = e :: w →
    s.env.rxAnswers = (f.toList.take (if c then 7 else 6)).map .byte ++ m →
    ∃ u t, exec (.measure c) s = .next u ∧
      runSteps (11 + (80 * s.cfg.ticksPerMs + e) + (if c then 7 else 6)) u = .next t ∧
      t.trace = s.trace ++ writeTrace s.devAddr [0xAC, 0x33, 0x00] ++ [.wait 80] ++
        readTrace s.devAddr (f.toList.take (if c then 7 else 6)) ∧
      t.rx = received (f.toList.take (if c then 7 else 6)) s.rx ∧ t.devstat = f[0] ∧
      t = { s with
        stat := t.stat, rx := t.rx, devstat := t.devstat, crcCalc := t.crcCalc, crcRecv := t.crcRecv
        rawH := t.rawH, rawT := t.rawT, preFsm := s.stat.fsm, trace := t.trace, stallTicks := 0
        env := { s.env with txAnswers := l, rxAnswers := m, waitExtras := w } } ∧
      (f[0].getLsbD 7 = true →
        t.stat = { doneStat s.stat .deviceBusy with fsm := .calibrated } ∧
        t.rawH = s.rawH ∧ t.rawT = s.rawT ∧ t.crcCalc = s.crcCalc ∧ t.crcRecv = s.crcRecv) ∧
      (f[0].getLsbD 7 = false → c = true →
        t.crcCalc = crc8 (f.toList.take 6) ∧ t.crcRecv = f[6] ∧
        (crc8 (f.toList.take 6) ≠ f[6] →
          t.stat = { doneStat s.stat .integrity with fsm := .calibrated } ∧ t.rawH = s.rawH ∧ t.rawT = s.rawT)) ∧
      (f[0].getLsbD 7 = false → (c = true → crc8 (f.toList.take 6) = f[6]) →
        t.stat = { doneStat s.stat .none with fsm := .ready, valid := true } ∧
        t.rawH = f[1] ++ f[2] ++ f[3].extractLsb' 4 4 ∧ t.rawT = f[3].extractLsb' 0 4 ++ f[4] ++ f[5] ∧
        (c = false → t.crcCalc = s.crcCalc ∧ t.crcRecv = s.crcRecv))

/-! ### Settle waits -/

/-- R266, R267: a settle wait emits WAIT(ms), draws k of at least ms * TICKS_PER_MS and lasts k ticks; all
through it no other bus event happens and no register changes; then the command goes on: INITIALIZE
to its second status read, MEASURE to its frame read, SOFT_RESET to its end.
The wait length beyond the minimum is listed as log 3 says; step boundaries: log 18. -/
def Obligations.SettleWaitLastsItsTicks : Prop :=
  ∀ (s : State) (i : Instr) (c : HostCmd) (wt : Settle) (ms : Nat) (after : Seq) (e : Nat) (w : List Nat),
    (i = .initializeCmd ∧ c = .initializeCmd ∧ wt = .init ∧ ms = 10 ∧ after = .start (.statusWrite true) ∨
      i = .softReset ∧ c = .softReset ∧ wt = .softReset ∧ ms = 20 ∧ after = .final .none ∨
      ∃ crc, i = .measure crc ∧ c = .measure crc ∧ wt = .measure ∧ ms = 80 ∧ after = .start (.frameRead crc)) →
    Undisturbed s → s.stat.busy = true → s.cur = some c → s.seq = .settle wt → s.env.waitExtras = e :: w →
    exec i s = .next { s with
      trace := s.trace ++ [.wait ms], waitLeft := ms * s.cfg.ticksPerMs + e, seq := .ticking wt
      env := { s.env with waitExtras := w } } ∧
    (∀ j, j < ms * s.cfg.ticksPerMs + e → runSteps (1 + j) s = .next { s with
      trace := s.trace ++ [.wait ms], waitLeft := ms * s.cfg.ticksPerMs + e - j, seq := .ticking wt
      env := { s.env with waitExtras := w } }) ∧
    runSteps (1 + (ms * s.cfg.ticksPerMs + e)) s = .next { s with
      trace := s.trace ++ [.wait ms], waitLeft := 0, seq := after, env := { s.env with waitExtras := w } }

/-! ### Frames: what each row leaves alone -/

/-- BUS_WRITE, BUS_READ and the address byte mutate no application state (R114): none of them writes
ADDR, LEN, TX, DEVSTAT, CRCR, RAW_H, RAW_T, VALID, the FSM or the settle counter; BUS_WRITE and the
address byte do not write RX, BUS_READ writes at most RX[0..N-1], and the address byte leaves STAT. -/
def Obligations.TransportFrame : Prop :=
  ∀ (s t : State),
    (exec .busWrite s = .next t →
      t = { s with stat := t.stat, cur := t.cur, seq := t.seq, preFsm := t.preFsm, bus := t.bus, trace := t.trace
                   refused := t.refused, stallTicks := t.stallTicks, env := t.env } ∧
      t.stat.fsm = s.stat.fsm ∧ t.stat.valid = s.stat.valid) ∧
    (exec .busRead s = .next t →
      t = { s with stat := t.stat, rx := t.rx, cur := t.cur, seq := t.seq, preFsm := t.preFsm, bus := t.bus
                   trace := t.trace, refused := t.refused, stallTicks := t.stallTicks, env := t.env } ∧
      t.stat.fsm = s.stat.fsm ∧ t.stat.valid = s.stat.valid ∧
      ((∀ i, s.seq = .data .hostRead i → i < s.len.toNat) →
        ∀ j : Fin 7, s.len.toNat ≤ j.val → t.rx[j] = s.rx[j])) ∧
    (∀ a d, exec (.busAddressByte a d) s = .next t →
      t = { s with seq := t.seq, trace := t.trace, stallTicks := t.stallTicks, env := t.env })

/-- A device-command row writes no register at all, not TX either (R80): only the sequencer, the trace,
the stall count and the environment's answers move. -/
def Obligations.DeviceCommandFrame : Prop :=
  ∀ (s t : State) (i : Instr), (i = .devInit ∨ i = .devMeasure ∨ i = .devSoftReset ∨ i = .devStatus) →
    exec i s = .next t →
    t = { s with seq := t.seq, trace := t.trace, stallTicks := t.stallTicks, env := t.env } ∧
    ∀ r, readReg r t = readReg r s

/-- What STATUS_READ, INITIALIZE and SOFT_RESET leave alone: ADDR, LEN, TX, CRCR, RAW_H, RAW_T and VALID;
SOFT_RESET also RX and DEVSTAT, STATUS_READ the FSM and the settle counter (R168, R169, R174, R176). -/
def Obligations.SequencerFrame : Prop :=
  ∀ (s t : State),
    (exec .statusRead s = .next t →
      t = { s with stat := t.stat, rx := t.rx, devstat := t.devstat, cur := t.cur, seq := t.seq, preFsm := t.preFsm
                   bus := t.bus, trace := t.trace, refused := t.refused, stallTicks := t.stallTicks, env := t.env } ∧
      t.stat.fsm = s.stat.fsm ∧ t.stat.valid = s.stat.valid ∧
      ((∀ i, s.seq = .data (.statusRead false) i → i = 0) → ∀ j : Fin 7, 1 ≤ j.val → t.rx[j] = s.rx[j])) ∧
    (exec .initializeCmd s = .next t →
      t = { s with stat := t.stat, rx := t.rx, devstat := t.devstat, cur := t.cur, seq := t.seq, preFsm := t.preFsm
                   bus := t.bus, waitLeft := t.waitLeft, trace := t.trace, refused := t.refused
                   stallTicks := t.stallTicks, env := t.env } ∧
      t.stat.valid = s.stat.valid ∧
      ((∀ again i, s.seq = .data (.statusRead again) i → i = 0) → ∀ j : Fin 7, 1 ≤ j.val → t.rx[j] = s.rx[j])) ∧
    (exec .softReset s = .next t →
      t = { s with stat := t.stat, cur := t.cur, seq := t.seq, preFsm := t.preFsm, bus := t.bus
                   waitLeft := t.waitLeft, trace := t.trace, refused := t.refused
                   stallTicks := t.stallTicks, env := t.env } ∧
      t.stat.valid = s.stat.valid)

/-- What MEASURE leaves alone: ADDR, LEN, TX always; RX[6] and CRCR with CRC_EN = 0; DEVSTAT, CRCR,
RAW_H, RAW_T and VALID in every step but the final one over the frame (R38, R147, R177, R181). -/
def Obligations.MeasureFrame : Prop :=
  ∀ (s t : State) (c : Bool), exec (.measure c) s = .next t →
    t = { s with stat := t.stat, rx := t.rx, devstat := t.devstat, crcCalc := t.crcCalc, crcRecv := t.crcRecv
                 rawH := t.rawH, rawT := t.rawT, cur := t.cur, seq := t.seq, preFsm := t.preFsm, bus := t.bus
                 waitLeft := t.waitLeft, trace := t.trace, refused := t.refused
                 stallTicks := t.stallTicks, env := t.env } ∧
    (c = false → t.crcCalc = s.crcCalc ∧ t.crcRecv = s.crcRecv) ∧
    (c = false → (∀ d i, s.seq = .data (.frameRead d) i → d = false ∧ i < 6) →
      (∀ d ok, s.seq = .stop (.frameRead d) ok → d = false) → t.rx[6] = s.rx[6]) ∧
    (s.seq ≠ .evaluate → t.devstat = s.devstat ∧ t.crcCalc = s.crcCalc ∧ t.crcRecv = s.crcRecv ∧
      t.rawH = s.rawH ∧ t.rawT = s.rawT ∧ t.stat.valid = s.stat.valid)

/-! ### Rules about the whole machine -/

/-- The invariant of a run holds at reset. -/
def Obligations.InvariantAtReset : Prop := Inv State.reset

/-- Every step keeps the invariant of a run: BUSY, `cur` and `seq` agree, a transaction is open exactly
from START to STOP and the trace keeps the framing, the FSM reads MEASURING exactly while a MEASURE
is past its first step, and the result fields agree (R26 to R31, R42, R43, R75, R76, R106, R186).
The positions and their steps are the model's reading (logs 6 to 10), a refused access sets the mark only
(log 1), and an idle block's step changes nothing (log 15). -/
def Obligations.InvariantKeptByEveryStep : Prop :=
  ∀ s t : State, Inv s → step s = .next t → Inv t

/-- From every state of a run the machine can take a step: no command, answer or host access stops it.
That a refused access and a stalled device still give a next state is the model's choice (log 1, log 9),
as are the idle block's step (log 15) and the fault that no such state raises (log 13). -/
def Obligations.EveryStepAnswers : Prop :=
  ∀ s : State, Inv s → ∃ t, step s = .next t

/-- R41: RAW_H, RAW_T and VALID change only at the final step of a MEASURE that succeeds, which sets
VALID and READY and ends with NONE, and otherwise only at block reset. -/
def Obligations.ReadingChangesOnlyOnSuccess : Prop :=
  ∀ s t : State, step s = .next t → resetPending s = false →
    (t.rawH ≠ s.rawH ∨ t.rawT ≠ s.rawT ∨ t.stat.valid ≠ s.stat.valid) →
    (∃ c, s.cur = some (.measure c)) ∧ s.seq = .evaluate ∧
      t.stat = { doneStat s.stat .none with fsm := .ready, valid := true } ∧
      t.rawH = humidityField s.rx[1] s.rx[2] s.rx[3] ∧ t.rawT = temperatureField s.rx[3] s.rx[4] s.rx[5]

/-- R38: CRCR is written only by a MEASURE with CRC_EN = 1 whose frame was received and is not busy, and
then holds the CRC-8 of RX[0..5] and RX[6], whether they match or not; otherwise only block reset
changes it. -/
def Obligations.CrcRegistersWrittenOnlyByMeasureCrc : Prop :=
  ∀ s t : State, Inv s → step s = .next t → resetPending s = false →
    (t.crcCalc ≠ s.crcCalc ∨ t.crcRecv ≠ s.crcRecv) →
    s.cur = some (.measure true) ∧ s.seq = .evaluate ∧ s.rx[0].getLsbD 7 = false ∧
      t.crcCalc = crc8 [s.rx[0], s.rx[1], s.rx[2], s.rx[3], s.rx[4], s.rx[5]] ∧ t.crcRecv = s.rx[6]

/-- R37: DEVSTAT changes only in a status read of STATUS_READ or INITIALIZE and in the final step of
MEASURE over its frame (or at block reset).
That the final step over the frame is apart from the last STOP is the model's reading (log 7). -/
def Obligations.DevstatWrittenByStatusAndFrame : Prop :=
  ∀ s t : State, Inv s → step s = .next t → resetPending s = false → t.devstat ≠ s.devstat →
    ((s.cur = some .statusRead ∨ s.cur = some .initializeCmd) ∧
      ((∃ again i d, s.seq = .data (.statusRead again) i ∧ t.devstat = d ∧ t.trace = s.trace ++ [.rx d .nack]) ∨
       (∃ x again, (x = .statusWrite again ∨ x = .statusRead again) ∧ s.seq = .stop x false ∧
          s.cfg.statusFailPolicy = .asZero ∧ t.devstat = 0))) ∨
    ((∃ c, s.cur = some (.measure c)) ∧ s.seq = .evaluate ∧ t.devstat = s.rx[0])

/-- R187: the only transitions of the FSM. BUS_WRITE, BUS_READ and STATUS_READ never change it.
The positions of the changes are the model's reading (logs 7, 10). -/
def Obligations.FsmTransitions : Prop :=
  ∀ s t : State, Inv s → step s = .next t → t.stat.fsm ≠ s.stat.fsm →
    (resetPending s = true ∧ t.stat.fsm = .uninitialized) ∨
    (s.cur = some .initializeCmd ∧ s.seq = .final .none ∧ t.stat.fsm = .calibrated) ∨
    (s.cur = some .initializeCmd ∧ s.seq = .final .initNotReady ∧ t.stat.fsm = .uninitialized) ∨
    (s.cur = some .initializeCmd ∧ s.seq = .final .transport ∧
      t.stat.fsm = if s.cfg.teToUninit then .uninitialized else s.preFsm) ∨
    (s.cur = some .softReset ∧ (∃ e, s.seq = .final e) ∧ t.stat.fsm = .uninitialized) ∨
    ((∃ c, s.cur = some (.measure c)) ∧
      ((s.seq = .start .trigger ∧ (s.stat.fsm = .calibrated ∨ s.stat.fsm = .ready) ∧ t.stat.fsm = .measuring) ∨
       (s.seq = .evaluate ∧ t.stat.err = .none ∧ t.stat.fsm = .ready) ∨
       (s.seq = .evaluate ∧ (t.stat.err = .deviceBusy ∨ t.stat.err = .integrity) ∧ t.stat.fsm = .calibrated) ∨
       (s.seq = .final .transport ∧ t.stat.fsm = if s.cfg.teToUninit then .uninitialized else .calibrated)))

/-- BUSY falls only in a command's final step, which in that one step sets DONE, sets OK exactly for
NONE, and frees `cur` and `seq` with the bus idle (R26, R27, R28, R65, R236), or at block reset.
The final step appends nothing to the trace, since it is a step of its own after the last STOP or tick:
the model's reading (log 7). -/
def Obligations.BusyEndsWithDone : Prop :=
  ∀ s t : State, Inv s → step s = .next t → resetPending s = false →
    s.stat.busy = true → t.stat.busy = false →
    t.stat.done = true ∧ t.stat.ok = decide (t.stat.err = .none) ∧ t.cur = none ∧ t.seq = .idle ∧
      t.bus = .idle ∧ t.trace = s.trace

/-- R106: a block at rest has left no transaction open, whatever its last command met: the bus is idle
and the trace ends outside a transaction.
FAIL and STOP are two steps (log 6), and the final step comes after STOP (log 7): the model's reading. -/
def Obligations.NoTransactionLeftOpen : Prop :=
  ∀ s t : State, Inv s → Reaches s t → t.stat.busy = false →
    t.bus = .idle ∧ tracePhase t.trace = some .outside

/-- R274: ADDR, LEN and TX change only while no command runs, or at block reset: never inside a command.
That a refused write changes no operand rests on log 1. -/
def Obligations.OperandsFixedDuringACommand : Prop :=
  ∀ s t : State, step s = .next t → resetPending s = false → s.stat.busy = true →
    t.devAddr = s.devAddr ∧ t.len = s.len ∧ t.tx = s.tx

/-- R162: a step appends at most one bus event to the trace (block reset starts it afresh), and never
alters what is there.
That FAIL and the STOP after it are two steps, so that one step has one event, is the model's reading (log 6). -/
def Obligations.OneBusEventPerStep : Prop :=
  ∀ s t : State, step s = .next t → resetPending s = false →
    t.trace = s.trace ∨ ∃ e, t.trace = s.trace ++ [e]

/-- R11: the refused mark, once set, stays set and keeps its reason for the whole run, through block
reset too (log 19). -/
def Obligations.RefusedMarkStays : Prop :=
  ∀ (s t : State) (m : RefuseReason), s.refused = some m → Reaches s t → t.refused = some m

/-! ### The CRC-8 validator and the parser -/

/-- R144, R148: the check value over "123456789", and the register after each byte of the fixture frame. -/
def Obligations.CrcKnownValues : Prop :=
  crc8 [0x31, 0x32, 0x33, 0x34, 0x35, 0x36, 0x37, 0x38, 0x39] = 0xF7 ∧
  [crc8 [0x00], crc8 [0x00, 0x1B], crc8 [0x00, 0x1B, 0x33], crc8 [0x00, 0x1B, 0x33, 0x5A],
    crc8 [0x00, 0x1B, 0x33, 0x5A, 0x9A], crc8 [0x00, 0x1B, 0x33, 0x5A, 0x9A, 0x3B]] =
    [0xAC, 0x28, 0xA9, 0xD1, 0xD7, 0xBC]

/-- R146: a frame with its own CRC-8 appended passes the check, and with no final XOR its CRC-8 is 0. -/
def Obligations.CrcAppendedPasses : Prop :=
  (∀ b0 b1 b2 b3 b4 b5 : Byte,
    crcCheck [b0, b1, b2, b3, b4, b5, crc8 [b0, b1, b2, b3, b4, b5]] = true) ∧
  ∀ s : List Byte, crc8 (s ++ [crc8 s]) = 0x00

/-- R121: the parser's fields are concatenations of the frame's bytes and nibbles, the lower index more
significant, and the buffer MEASURE parses gives the same as the sequence of its 6 or 7 bytes. -/
def Obligations.ParserConcatenates : Prop :=
  (∀ b0 b1 b2 b3 b4 b5 b6 : Byte,
    parse [b0, b1, b2, b3, b4, b5] = some
      { status := b0, h := b1 ++ b2 ++ b3.extractLsb' 4 4, t := b3.extractLsb' 0 4 ++ b4 ++ b5, crc := none } ∧
    parse [b0, b1, b2, b3, b4, b5, b6] = some
      { status := b0, h := b1 ++ b2 ++ b3.extractLsb' 4 4, t := b3.extractLsb' 0 4 ++ b4 ++ b5, crc := some b6 }) ∧
  ∀ (b : Vector Byte 7) (c : Bool), parse (b.toList.take (frameLen c)) = some (parseBuffer b c)

/-- R127: a change of one bit of byte 3 changes exactly one of the two fields: the humidity field for a
bit of the high nibble, the temperature field for one of the low nibble. No bit of byte 0 is in either. -/
def Obligations.Byte3BelongsToOneField : Prop :=
  (∀ (b1 b2 b3 b4 b5 : Byte) (k : Nat),
    (k < 4 → humidityField b1 b2 (b3 ^^^ BitVec.twoPow 8 k) = humidityField b1 b2 b3 ∧
      temperatureField (b3 ^^^ BitVec.twoPow 8 k) b4 b5 ≠ temperatureField b3 b4 b5) ∧
    (4 ≤ k → k < 8 → humidityField b1 b2 (b3 ^^^ BitVec.twoPow 8 k) ≠ humidityField b1 b2 b3 ∧
      temperatureField (b3 ^^^ BitVec.twoPow 8 k) b4 b5 = temperatureField b3 b4 b5)) ∧
  ∀ (a b : Byte) (rest : List Byte),
    (parse (a :: rest)).map (fun p => (p.h, p.t)) = (parse (b :: rest)).map (fun p => (p.h, p.t))

/-- R126: every pair of 20-bit values is the parse of some frame, with any Status Byte. -/
def Obligations.EveryRawPairIsParsed : Prop :=
  ∀ (status : Byte) (h t : Raw), ∃ b1 b2 b3 b4 b5 : Byte,
    parse [status, b1, b2, b3, b4, b5] = some { status := status, h := h, t := t, crc := none }

/-! ### The host-side conversion -/

/-- R215: RH lies in [0, 100) and TC in [-50, 150), both strictly increasing, with the largest values
the rule gives. -/
def Obligations.ConversionRanges : Prop :=
  (∀ h : Raw, 0 ≤ relHumidity h ∧ relHumidity h < 100) ∧
  (∀ g h : Raw, g.toNat < h.toNat → relHumidity g < relHumidity h) ∧
  (∀ t : Raw, -50 ≤ celsius t ∧ celsius t < 150) ∧
  (∀ u t : Raw, u.toNat < t.toNat → celsius u < celsius t) ∧
  relHumidity 0xFFFFF = 26214375 / 262144 ∧ celsius 0xFFFFF = 19660775 / 131072

/-- R213: the host-side reading is (0.0, 0.0) until a measurement has succeeded, then the converted
fields; in Fahrenheit the default is 32 (R214). -/
def Obligations.DefaultReadingUntilValid : Prop :=
  ∀ s : State,
    (s.stat.valid = false → reading s = { humidity := 0, temperature := 0 } ∧ readingFahrenheit s = 32) ∧
    (s.stat.valid = true → reading s = { humidity := relHumidity s.rawH, temperature := celsius s.rawT })

/-- R216: every value the conversion to %RH and °C passes through, in either operation order, is held
exactly by binary64. -/
def Obligations.ConversionExactInBinary64 : Prop :=
  ∀ r : Raw,
    exactInBinary64 r.toNat ∧ exactInBinary64 ((r.toNat : Rat) / 2 ^ 20) ∧
    exactInBinary64 ((r.toNat : Rat) * 100) ∧ exactInBinary64 (relHumidity r) ∧
    exactInBinary64 ((r.toNat : Rat) * 200) ∧ exactInBinary64 ((r.toNat : Rat) * 200 / 2 ^ 20) ∧
    exactInBinary64 (celsius r)
end

