-- ==== Sys2Proof/Laws/State.lean ====
section
/-! SUPPORT. One small lemma per field of State and shared operation: what the field holds after it.
Proofs cite these instead of unfolding a record update. -/

namespace Sys2Proof.Laws

open Sys2Proof.Machine

/-! ### openXfer -/

@[simp] theorem openXfer_stat (x : Xfer) (s : State) : (openXfer x s).stat = s.stat := rfl
@[simp] theorem openXfer_devAddr (x : Xfer) (s : State) : (openXfer x s).devAddr = s.devAddr := rfl
@[simp] theorem openXfer_len (x : Xfer) (s : State) : (openXfer x s).len = s.len := rfl
@[simp] theorem openXfer_tx (x : Xfer) (s : State) : (openXfer x s).tx = s.tx := rfl
@[simp] theorem openXfer_rx (x : Xfer) (s : State) : (openXfer x s).rx = s.rx := rfl
@[simp] theorem openXfer_devstat (x : Xfer) (s : State) : (openXfer x s).devstat = s.devstat := rfl
@[simp] theorem openXfer_crcCalc (x : Xfer) (s : State) : (openXfer x s).crcCalc = s.crcCalc := rfl
@[simp] theorem openXfer_crcRecv (x : Xfer) (s : State) : (openXfer x s).crcRecv = s.crcRecv := rfl
@[simp] theorem openXfer_rawH (x : Xfer) (s : State) : (openXfer x s).rawH = s.rawH := rfl
@[simp] theorem openXfer_rawT (x : Xfer) (s : State) : (openXfer x s).rawT = s.rawT := rfl
@[simp] theorem openXfer_cur (x : Xfer) (s : State) : (openXfer x s).cur = s.cur := rfl
@[simp] theorem openXfer_seq (x : Xfer) (s : State) : (openXfer x s).seq = .address x := rfl
@[simp] theorem openXfer_preFsm (x : Xfer) (s : State) : (openXfer x s).preFsm = s.preFsm := rfl
@[simp] theorem openXfer_bus (x : Xfer) (s : State) : (openXfer x s).bus = .inTransaction := rfl
@[simp] theorem openXfer_waitLeft (x : Xfer) (s : State) : (openXfer x s).waitLeft = s.waitLeft := rfl
@[simp] theorem openXfer_trace (x : Xfer) (s : State) : (openXfer x s).trace = s.trace ++ [.start] := rfl
@[simp] theorem openXfer_refused (x : Xfer) (s : State) : (openXfer x s).refused = s.refused := rfl
@[simp] theorem openXfer_stallTicks (x : Xfer) (s : State) : (openXfer x s).stallTicks = 0 := rfl
@[simp] theorem openXfer_cfg (x : Xfer) (s : State) : (openXfer x s).cfg = s.cfg := rfl
@[simp] theorem openXfer_env (x : Xfer) (s : State) : (openXfer x s).env = s.env := rfl

/-! ### failByte -/

@[simp] theorem failByte_stat (w : FailCause) (x : Xfer) (s : State) : (failByte w x s).stat = s.stat := rfl
@[simp] theorem failByte_devAddr (w : FailCause) (x : Xfer) (s : State) : (failByte w x s).devAddr = s.devAddr := rfl
@[simp] theorem failByte_len (w : FailCause) (x : Xfer) (s : State) : (failByte w x s).len = s.len := rfl
@[simp] theorem failByte_tx (w : FailCause) (x : Xfer) (s : State) : (failByte w x s).tx = s.tx := rfl
@[simp] theorem failByte_rx (w : FailCause) (x : Xfer) (s : State) : (failByte w x s).rx = s.rx := rfl
@[simp] theorem failByte_devstat (w : FailCause) (x : Xfer) (s : State) : (failByte w x s).devstat = s.devstat := rfl
@[simp] theorem failByte_crcCalc (w : FailCause) (x : Xfer) (s : State) : (failByte w x s).crcCalc = s.crcCalc := rfl
@[simp] theorem failByte_crcRecv (w : FailCause) (x : Xfer) (s : State) : (failByte w x s).crcRecv = s.crcRecv := rfl
@[simp] theorem failByte_rawH (w : FailCause) (x : Xfer) (s : State) : (failByte w x s).rawH = s.rawH := rfl
@[simp] theorem failByte_rawT (w : FailCause) (x : Xfer) (s : State) : (failByte w x s).rawT = s.rawT := rfl
@[simp] theorem failByte_cur (w : FailCause) (x : Xfer) (s : State) : (failByte w x s).cur = s.cur := rfl
@[simp] theorem failByte_seq (w : FailCause) (x : Xfer) (s : State) : (failByte w x s).seq = .stop x false := rfl
@[simp] theorem failByte_preFsm (w : FailCause) (x : Xfer) (s : State) : (failByte w x s).preFsm = s.preFsm := rfl
@[simp] theorem failByte_bus (w : FailCause) (x : Xfer) (s : State) : (failByte w x s).bus = s.bus := rfl
@[simp] theorem failByte_waitLeft (w : FailCause) (x : Xfer) (s : State) : (failByte w x s).waitLeft = s.waitLeft := rfl
@[simp] theorem failByte_trace (w : FailCause) (x : Xfer) (s : State) : (failByte w x s).trace = s.trace ++ [.fail w] := rfl
@[simp] theorem failByte_refused (w : FailCause) (x : Xfer) (s : State) : (failByte w x s).refused = s.refused := rfl
@[simp] theorem failByte_stallTicks (w : FailCause) (x : Xfer) (s : State) : (failByte w x s).stallTicks = 0 := rfl
@[simp] theorem failByte_cfg (w : FailCause) (x : Xfer) (s : State) : (failByte w x s).cfg = s.cfg := rfl
@[simp] theorem failByte_env (w : FailCause) (x : Xfer) (s : State) : (failByte w x s).env = s.env := rfl

/-! ### takeByte -/

@[simp] theorem takeByte_stat (x : Xfer) (i : Nat) (d : Byte) (s : State) : (takeByte x i d s).stat = s.stat := rfl
@[simp] theorem takeByte_devAddr (x : Xfer) (i : Nat) (d : Byte) (s : State) : (takeByte x i d s).devAddr = s.devAddr := rfl
@[simp] theorem takeByte_len (x : Xfer) (i : Nat) (d : Byte) (s : State) : (takeByte x i d s).len = s.len := rfl
@[simp] theorem takeByte_tx (x : Xfer) (i : Nat) (d : Byte) (s : State) : (takeByte x i d s).tx = s.tx := rfl
@[simp] theorem takeByte_rx (x : Xfer) (i : Nat) (d : Byte) (s : State) : (takeByte x i d s).rx = s.rx.setIfInBounds i d := rfl
@[simp] theorem takeByte_devstat (x : Xfer) (i : Nat) (d : Byte) (s : State) : (takeByte x i d s).devstat = if x.isStatusRead then d else s.devstat := rfl
@[simp] theorem takeByte_crcCalc (x : Xfer) (i : Nat) (d : Byte) (s : State) : (takeByte x i d s).crcCalc = s.crcCalc := rfl
@[simp] theorem takeByte_crcRecv (x : Xfer) (i : Nat) (d : Byte) (s : State) : (takeByte x i d s).crcRecv = s.crcRecv := rfl
@[simp] theorem takeByte_rawH (x : Xfer) (i : Nat) (d : Byte) (s : State) : (takeByte x i d s).rawH = s.rawH := rfl
@[simp] theorem takeByte_rawT (x : Xfer) (i : Nat) (d : Byte) (s : State) : (takeByte x i d s).rawT = s.rawT := rfl
@[simp] theorem takeByte_cur (x : Xfer) (i : Nat) (d : Byte) (s : State) : (takeByte x i d s).cur = s.cur := rfl
@[simp] theorem takeByte_seq (x : Xfer) (i : Nat) (d : Byte) (s : State) : (takeByte x i d s).seq = dataOrStop x (i + 1) (xferLen s x) := rfl
@[simp] theorem takeByte_preFsm (x : Xfer) (i : Nat) (d : Byte) (s : State) : (takeByte x i d s).preFsm = s.preFsm := rfl
@[simp] theorem takeByte_bus (x : Xfer) (i : Nat) (d : Byte) (s : State) : (takeByte x i d s).bus = s.bus := rfl
@[simp] theorem takeByte_waitLeft (x : Xfer) (i : Nat) (d : Byte) (s : State) : (takeByte x i d s).waitLeft = s.waitLeft := rfl
@[simp] theorem takeByte_trace (x : Xfer) (i : Nat) (d : Byte) (s : State) : (takeByte x i d s).trace = s.trace ++ [.rx d (readAck i (xferLen s x))] := rfl
@[simp] theorem takeByte_refused (x : Xfer) (i : Nat) (d : Byte) (s : State) : (takeByte x i d s).refused = s.refused := rfl
@[simp] theorem takeByte_stallTicks (x : Xfer) (i : Nat) (d : Byte) (s : State) : (takeByte x i d s).stallTicks = 0 := rfl
@[simp] theorem takeByte_cfg (x : Xfer) (i : Nat) (d : Byte) (s : State) : (takeByte x i d s).cfg = s.cfg := rfl
@[simp] theorem takeByte_env (x : Xfer) (i : Nat) (d : Byte) (s : State) : (takeByte x i d s).env = s.env := rfl

/-! ### scrambleRx -/

@[simp] theorem scrambleRx_stat (n : Nat) (s : State) : (scrambleRx n s).stat = s.stat := rfl
@[simp] theorem scrambleRx_devAddr (n : Nat) (s : State) : (scrambleRx n s).devAddr = s.devAddr := rfl
@[simp] theorem scrambleRx_len (n : Nat) (s : State) : (scrambleRx n s).len = s.len := rfl
@[simp] theorem scrambleRx_tx (n : Nat) (s : State) : (scrambleRx n s).tx = s.tx := rfl
@[simp] theorem scrambleRx_devstat (n : Nat) (s : State) : (scrambleRx n s).devstat = s.devstat := rfl
@[simp] theorem scrambleRx_crcCalc (n : Nat) (s : State) : (scrambleRx n s).crcCalc = s.crcCalc := rfl
@[simp] theorem scrambleRx_crcRecv (n : Nat) (s : State) : (scrambleRx n s).crcRecv = s.crcRecv := rfl
@[simp] theorem scrambleRx_rawH (n : Nat) (s : State) : (scrambleRx n s).rawH = s.rawH := rfl
@[simp] theorem scrambleRx_rawT (n : Nat) (s : State) : (scrambleRx n s).rawT = s.rawT := rfl
@[simp] theorem scrambleRx_cur (n : Nat) (s : State) : (scrambleRx n s).cur = s.cur := rfl
@[simp] theorem scrambleRx_seq (n : Nat) (s : State) : (scrambleRx n s).seq = s.seq := rfl
@[simp] theorem scrambleRx_preFsm (n : Nat) (s : State) : (scrambleRx n s).preFsm = s.preFsm := rfl
@[simp] theorem scrambleRx_bus (n : Nat) (s : State) : (scrambleRx n s).bus = s.bus := rfl
@[simp] theorem scrambleRx_waitLeft (n : Nat) (s : State) : (scrambleRx n s).waitLeft = s.waitLeft := rfl
@[simp] theorem scrambleRx_trace (n : Nat) (s : State) : (scrambleRx n s).trace = s.trace := rfl
@[simp] theorem scrambleRx_refused (n : Nat) (s : State) : (scrambleRx n s).refused = s.refused := rfl
@[simp] theorem scrambleRx_stallTicks (n : Nat) (s : State) : (scrambleRx n s).stallTicks = s.stallTicks := rfl
@[simp] theorem scrambleRx_cfg (n : Nat) (s : State) : (scrambleRx n s).cfg = s.cfg := rfl

/-! ### tick -/

@[simp] theorem tick_stat (q : Seq) (s : State) : (tick q s).stat = s.stat := rfl
@[simp] theorem tick_devAddr (q : Seq) (s : State) : (tick q s).devAddr = s.devAddr := rfl
@[simp] theorem tick_len (q : Seq) (s : State) : (tick q s).len = s.len := rfl
@[simp] theorem tick_tx (q : Seq) (s : State) : (tick q s).tx = s.tx := rfl
@[simp] theorem tick_rx (q : Seq) (s : State) : (tick q s).rx = s.rx := rfl
@[simp] theorem tick_devstat (q : Seq) (s : State) : (tick q s).devstat = s.devstat := rfl
@[simp] theorem tick_crcCalc (q : Seq) (s : State) : (tick q s).crcCalc = s.crcCalc := rfl
@[simp] theorem tick_crcRecv (q : Seq) (s : State) : (tick q s).crcRecv = s.crcRecv := rfl
@[simp] theorem tick_rawH (q : Seq) (s : State) : (tick q s).rawH = s.rawH := rfl
@[simp] theorem tick_rawT (q : Seq) (s : State) : (tick q s).rawT = s.rawT := rfl
@[simp] theorem tick_cur (q : Seq) (s : State) : (tick q s).cur = s.cur := rfl
@[simp] theorem tick_seq (q : Seq) (s : State) : (tick q s).seq = if s.waitLeft ≤ 1 then q else s.seq := rfl
@[simp] theorem tick_preFsm (q : Seq) (s : State) : (tick q s).preFsm = s.preFsm := rfl
@[simp] theorem tick_bus (q : Seq) (s : State) : (tick q s).bus = s.bus := rfl
@[simp] theorem tick_waitLeft (q : Seq) (s : State) : (tick q s).waitLeft = s.waitLeft - 1 := rfl
@[simp] theorem tick_trace (q : Seq) (s : State) : (tick q s).trace = s.trace := rfl
@[simp] theorem tick_refused (q : Seq) (s : State) : (tick q s).refused = s.refused := rfl
@[simp] theorem tick_stallTicks (q : Seq) (s : State) : (tick q s).stallTicks = s.stallTicks := rfl
@[simp] theorem tick_cfg (q : Seq) (s : State) : (tick q s).cfg = s.cfg := rfl
@[simp] theorem tick_env (q : Seq) (s : State) : (tick q s).env = s.env := rfl

/-! ### refuse -/

@[simp] theorem refuse_stat (r : RefuseReason) (s : State) : (refuse r s).stat = s.stat := rfl
@[simp] theorem refuse_devAddr (r : RefuseReason) (s : State) : (refuse r s).devAddr = s.devAddr := rfl
@[simp] theorem refuse_len (r : RefuseReason) (s : State) : (refuse r s).len = s.len := rfl
@[simp] theorem refuse_tx (r : RefuseReason) (s : State) : (refuse r s).tx = s.tx := rfl
@[simp] theorem refuse_rx (r : RefuseReason) (s : State) : (refuse r s).rx = s.rx := rfl
@[simp] theorem refuse_devstat (r : RefuseReason) (s : State) : (refuse r s).devstat = s.devstat := rfl
@[simp] theorem refuse_crcCalc (r : RefuseReason) (s : State) : (refuse r s).crcCalc = s.crcCalc := rfl
@[simp] theorem refuse_crcRecv (r : RefuseReason) (s : State) : (refuse r s).crcRecv = s.crcRecv := rfl
@[simp] theorem refuse_rawH (r : RefuseReason) (s : State) : (refuse r s).rawH = s.rawH := rfl
@[simp] theorem refuse_rawT (r : RefuseReason) (s : State) : (refuse r s).rawT = s.rawT := rfl
@[simp] theorem refuse_cur (r : RefuseReason) (s : State) : (refuse r s).cur = s.cur := rfl
@[simp] theorem refuse_seq (r : RefuseReason) (s : State) : (refuse r s).seq = s.seq := rfl
@[simp] theorem refuse_preFsm (r : RefuseReason) (s : State) : (refuse r s).preFsm = s.preFsm := rfl
@[simp] theorem refuse_bus (r : RefuseReason) (s : State) : (refuse r s).bus = s.bus := rfl
@[simp] theorem refuse_waitLeft (r : RefuseReason) (s : State) : (refuse r s).waitLeft = s.waitLeft := rfl
@[simp] theorem refuse_trace (r : RefuseReason) (s : State) : (refuse r s).trace = s.trace := rfl
@[simp] theorem refuse_refused (r : RefuseReason) (s : State) : (refuse r s).refused = some (s.refused.getD r) := rfl
@[simp] theorem refuse_stallTicks (r : RefuseReason) (s : State) : (refuse r s).stallTicks = s.stallTicks := rfl
@[simp] theorem refuse_cfg (r : RefuseReason) (s : State) : (refuse r s).cfg = s.cfg := rfl
@[simp] theorem refuse_env (r : RefuseReason) (s : State) : (refuse r s).env = s.env := rfl

/-! ### finish -/

@[simp] theorem finish_stat (e : ErrCode) (s : State) : (finish e s).stat = s.stat.finished e := rfl
@[simp] theorem finish_devAddr (e : ErrCode) (s : State) : (finish e s).devAddr = s.devAddr := rfl
@[simp] theorem finish_len (e : ErrCode) (s : State) : (finish e s).len = s.len := rfl
@[simp] theorem finish_tx (e : ErrCode) (s : State) : (finish e s).tx = s.tx := rfl
@[simp] theorem finish_rx (e : ErrCode) (s : State) : (finish e s).rx = s.rx := rfl
@[simp] theorem finish_devstat (e : ErrCode) (s : State) : (finish e s).devstat = s.devstat := rfl
@[simp] theorem finish_crcCalc (e : ErrCode) (s : State) : (finish e s).crcCalc = s.crcCalc := rfl
@[simp] theorem finish_crcRecv (e : ErrCode) (s : State) : (finish e s).crcRecv = s.crcRecv := rfl
@[simp] theorem finish_rawH (e : ErrCode) (s : State) : (finish e s).rawH = s.rawH := rfl
@[simp] theorem finish_rawT (e : ErrCode) (s : State) : (finish e s).rawT = s.rawT := rfl
@[simp] theorem finish_cur (e : ErrCode) (s : State) : (finish e s).cur = none := rfl
@[simp] theorem finish_seq (e : ErrCode) (s : State) : (finish e s).seq = .idle := rfl
@[simp] theorem finish_preFsm (e : ErrCode) (s : State) : (finish e s).preFsm = s.preFsm := rfl
@[simp] theorem finish_bus (e : ErrCode) (s : State) : (finish e s).bus = s.bus := rfl
@[simp] theorem finish_waitLeft (e : ErrCode) (s : State) : (finish e s).waitLeft = s.waitLeft := rfl
@[simp] theorem finish_trace (e : ErrCode) (s : State) : (finish e s).trace = s.trace := rfl
@[simp] theorem finish_refused (e : ErrCode) (s : State) : (finish e s).refused = s.refused := rfl
@[simp] theorem finish_stallTicks (e : ErrCode) (s : State) : (finish e s).stallTicks = s.stallTicks := rfl
@[simp] theorem finish_cfg (e : ErrCode) (s : State) : (finish e s).cfg = s.cfg := rfl
@[simp] theorem finish_env (e : ErrCode) (s : State) : (finish e s).env = s.env := rfl

/-! ### setFsm -/

@[simp] theorem setFsm_stat (f : Fsm) (s : State) : (setFsm f s).stat = { s.stat with fsm := f } := rfl
@[simp] theorem setFsm_devAddr (f : Fsm) (s : State) : (setFsm f s).devAddr = s.devAddr := rfl
@[simp] theorem setFsm_len (f : Fsm) (s : State) : (setFsm f s).len = s.len := rfl
@[simp] theorem setFsm_tx (f : Fsm) (s : State) : (setFsm f s).tx = s.tx := rfl
@[simp] theorem setFsm_rx (f : Fsm) (s : State) : (setFsm f s).rx = s.rx := rfl
@[simp] theorem setFsm_devstat (f : Fsm) (s : State) : (setFsm f s).devstat = s.devstat := rfl
@[simp] theorem setFsm_crcCalc (f : Fsm) (s : State) : (setFsm f s).crcCalc = s.crcCalc := rfl
@[simp] theorem setFsm_crcRecv (f : Fsm) (s : State) : (setFsm f s).crcRecv = s.crcRecv := rfl
@[simp] theorem setFsm_rawH (f : Fsm) (s : State) : (setFsm f s).rawH = s.rawH := rfl
@[simp] theorem setFsm_rawT (f : Fsm) (s : State) : (setFsm f s).rawT = s.rawT := rfl
@[simp] theorem setFsm_cur (f : Fsm) (s : State) : (setFsm f s).cur = s.cur := rfl
@[simp] theorem setFsm_seq (f : Fsm) (s : State) : (setFsm f s).seq = s.seq := rfl
@[simp] theorem setFsm_preFsm (f : Fsm) (s : State) : (setFsm f s).preFsm = s.preFsm := rfl
@[simp] theorem setFsm_bus (f : Fsm) (s : State) : (setFsm f s).bus = s.bus := rfl
@[simp] theorem setFsm_waitLeft (f : Fsm) (s : State) : (setFsm f s).waitLeft = s.waitLeft := rfl
@[simp] theorem setFsm_trace (f : Fsm) (s : State) : (setFsm f s).trace = s.trace := rfl
@[simp] theorem setFsm_refused (f : Fsm) (s : State) : (setFsm f s).refused = s.refused := rfl
@[simp] theorem setFsm_stallTicks (f : Fsm) (s : State) : (setFsm f s).stallTicks = s.stallTicks := rfl
@[simp] theorem setFsm_cfg (f : Fsm) (s : State) : (setFsm f s).cfg = s.cfg := rfl
@[simp] theorem setFsm_env (f : Fsm) (s : State) : (setFsm f s).env = s.env := rfl

/-! ### recordCrc -/

@[simp] theorem recordCrc_stat (s : State) : (recordCrc s).stat = s.stat := rfl
@[simp] theorem recordCrc_devAddr (s : State) : (recordCrc s).devAddr = s.devAddr := rfl
@[simp] theorem recordCrc_len (s : State) : (recordCrc s).len = s.len := rfl
@[simp] theorem recordCrc_tx (s : State) : (recordCrc s).tx = s.tx := rfl
@[simp] theorem recordCrc_rx (s : State) : (recordCrc s).rx = s.rx := rfl
@[simp] theorem recordCrc_devstat (s : State) : (recordCrc s).devstat = s.devstat := rfl
@[simp] theorem recordCrc_crcCalc (s : State) : (recordCrc s).crcCalc = crc8 [s.rx[0], s.rx[1], s.rx[2], s.rx[3], s.rx[4], s.rx[5]] := rfl
@[simp] theorem recordCrc_crcRecv (s : State) : (recordCrc s).crcRecv = s.rx[6] := rfl
@[simp] theorem recordCrc_rawH (s : State) : (recordCrc s).rawH = s.rawH := rfl
@[simp] theorem recordCrc_rawT (s : State) : (recordCrc s).rawT = s.rawT := rfl
@[simp] theorem recordCrc_cur (s : State) : (recordCrc s).cur = s.cur := rfl
@[simp] theorem recordCrc_seq (s : State) : (recordCrc s).seq = s.seq := rfl
@[simp] theorem recordCrc_preFsm (s : State) : (recordCrc s).preFsm = s.preFsm := rfl
@[simp] theorem recordCrc_bus (s : State) : (recordCrc s).bus = s.bus := rfl
@[simp] theorem recordCrc_waitLeft (s : State) : (recordCrc s).waitLeft = s.waitLeft := rfl
@[simp] theorem recordCrc_trace (s : State) : (recordCrc s).trace = s.trace := rfl
@[simp] theorem recordCrc_refused (s : State) : (recordCrc s).refused = s.refused := rfl
@[simp] theorem recordCrc_stallTicks (s : State) : (recordCrc s).stallTicks = s.stallTicks := rfl
@[simp] theorem recordCrc_cfg (s : State) : (recordCrc s).cfg = s.cfg := rfl
@[simp] theorem recordCrc_env (s : State) : (recordCrc s).env = s.env := rfl

/-! ### recordReading -/

@[simp] theorem recordReading_stat (p : Parsed) (s : State) : (recordReading p s).stat = { s.stat with valid := true, fsm := .ready } := rfl
@[simp] theorem recordReading_devAddr (p : Parsed) (s : State) : (recordReading p s).devAddr = s.devAddr := rfl
@[simp] theorem recordReading_len (p : Parsed) (s : State) : (recordReading p s).len = s.len := rfl
@[simp] theorem recordReading_tx (p : Parsed) (s : State) : (recordReading p s).tx = s.tx := rfl
@[simp] theorem recordReading_rx (p : Parsed) (s : State) : (recordReading p s).rx = s.rx := rfl
@[simp] theorem recordReading_devstat (p : Parsed) (s : State) : (recordReading p s).devstat = s.devstat := rfl
@[simp] theorem recordReading_crcCalc (p : Parsed) (s : State) : (recordReading p s).crcCalc = s.crcCalc := rfl
@[simp] theorem recordReading_crcRecv (p : Parsed) (s : State) : (recordReading p s).crcRecv = s.crcRecv := rfl
@[simp] theorem recordReading_rawH (p : Parsed) (s : State) : (recordReading p s).rawH = p.h := rfl
@[simp] theorem recordReading_rawT (p : Parsed) (s : State) : (recordReading p s).rawT = p.t := rfl
@[simp] theorem recordReading_cur (p : Parsed) (s : State) : (recordReading p s).cur = s.cur := rfl
@[simp] theorem recordReading_seq (p : Parsed) (s : State) : (recordReading p s).seq = s.seq := rfl
@[simp] theorem recordReading_preFsm (p : Parsed) (s : State) : (recordReading p s).preFsm = s.preFsm := rfl
@[simp] theorem recordReading_bus (p : Parsed) (s : State) : (recordReading p s).bus = s.bus := rfl
@[simp] theorem recordReading_waitLeft (p : Parsed) (s : State) : (recordReading p s).waitLeft = s.waitLeft := rfl
@[simp] theorem recordReading_trace (p : Parsed) (s : State) : (recordReading p s).trace = s.trace := rfl
@[simp] theorem recordReading_refused (p : Parsed) (s : State) : (recordReading p s).refused = s.refused := rfl
@[simp] theorem recordReading_stallTicks (p : Parsed) (s : State) : (recordReading p s).stallTicks = s.stallTicks := rfl
@[simp] theorem recordReading_cfg (p : Parsed) (s : State) : (recordReading p s).cfg = s.cfg := rfl
@[simp] theorem recordReading_env (p : Parsed) (s : State) : (recordReading p s).env = s.env := rfl

/-! ### returnValue -/

@[simp] theorem returnValue_stat (off : Offset) (v : Word) (s : State) : (returnValue off v s).stat = s.stat := rfl
@[simp] theorem returnValue_devAddr (off : Offset) (v : Word) (s : State) : (returnValue off v s).devAddr = s.devAddr := rfl
@[simp] theorem returnValue_len (off : Offset) (v : Word) (s : State) : (returnValue off v s).len = s.len := rfl
@[simp] theorem returnValue_tx (off : Offset) (v : Word) (s : State) : (returnValue off v s).tx = s.tx := rfl
@[simp] theorem returnValue_rx (off : Offset) (v : Word) (s : State) : (returnValue off v s).rx = s.rx := rfl
@[simp] theorem returnValue_devstat (off : Offset) (v : Word) (s : State) : (returnValue off v s).devstat = s.devstat := rfl
@[simp] theorem returnValue_crcCalc (off : Offset) (v : Word) (s : State) : (returnValue off v s).crcCalc = s.crcCalc := rfl
@[simp] theorem returnValue_crcRecv (off : Offset) (v : Word) (s : State) : (returnValue off v s).crcRecv = s.crcRecv := rfl
@[simp] theorem returnValue_rawH (off : Offset) (v : Word) (s : State) : (returnValue off v s).rawH = s.rawH := rfl
@[simp] theorem returnValue_rawT (off : Offset) (v : Word) (s : State) : (returnValue off v s).rawT = s.rawT := rfl
@[simp] theorem returnValue_cur (off : Offset) (v : Word) (s : State) : (returnValue off v s).cur = s.cur := rfl
@[simp] theorem returnValue_seq (off : Offset) (v : Word) (s : State) : (returnValue off v s).seq = s.seq := rfl
@[simp] theorem returnValue_preFsm (off : Offset) (v : Word) (s : State) : (returnValue off v s).preFsm = s.preFsm := rfl
@[simp] theorem returnValue_bus (off : Offset) (v : Word) (s : State) : (returnValue off v s).bus = s.bus := rfl
@[simp] theorem returnValue_waitLeft (off : Offset) (v : Word) (s : State) : (returnValue off v s).waitLeft = s.waitLeft := rfl
@[simp] theorem returnValue_trace (off : Offset) (v : Word) (s : State) : (returnValue off v s).trace = s.trace := rfl
@[simp] theorem returnValue_refused (off : Offset) (v : Word) (s : State) : (returnValue off v s).refused = s.refused := rfl
@[simp] theorem returnValue_stallTicks (off : Offset) (v : Word) (s : State) : (returnValue off v s).stallTicks = s.stallTicks := rfl
@[simp] theorem returnValue_cfg (off : Offset) (v : Word) (s : State) : (returnValue off v s).cfg = s.cfg := rfl

/-! ### setInputs -/

@[simp] theorem setInputs_stat (l : List (Nat × HostAction)) (s : State) : (setInputs l s).stat = s.stat := rfl
@[simp] theorem setInputs_devAddr (l : List (Nat × HostAction)) (s : State) : (setInputs l s).devAddr = s.devAddr := rfl
@[simp] theorem setInputs_len (l : List (Nat × HostAction)) (s : State) : (setInputs l s).len = s.len := rfl
@[simp] theorem setInputs_tx (l : List (Nat × HostAction)) (s : State) : (setInputs l s).tx = s.tx := rfl
@[simp] theorem setInputs_rx (l : List (Nat × HostAction)) (s : State) : (setInputs l s).rx = s.rx := rfl
@[simp] theorem setInputs_devstat (l : List (Nat × HostAction)) (s : State) : (setInputs l s).devstat = s.devstat := rfl
@[simp] theorem setInputs_crcCalc (l : List (Nat × HostAction)) (s : State) : (setInputs l s).crcCalc = s.crcCalc := rfl
@[simp] theorem setInputs_crcRecv (l : List (Nat × HostAction)) (s : State) : (setInputs l s).crcRecv = s.crcRecv := rfl
@[simp] theorem setInputs_rawH (l : List (Nat × HostAction)) (s : State) : (setInputs l s).rawH = s.rawH := rfl
@[simp] theorem setInputs_rawT (l : List (Nat × HostAction)) (s : State) : (setInputs l s).rawT = s.rawT := rfl
@[simp] theorem setInputs_cur (l : List (Nat × HostAction)) (s : State) : (setInputs l s).cur = s.cur := rfl
@[simp] theorem setInputs_seq (l : List (Nat × HostAction)) (s : State) : (setInputs l s).seq = s.seq := rfl
@[simp] theorem setInputs_preFsm (l : List (Nat × HostAction)) (s : State) : (setInputs l s).preFsm = s.preFsm := rfl
@[simp] theorem setInputs_bus (l : List (Nat × HostAction)) (s : State) : (setInputs l s).bus = s.bus := rfl
@[simp] theorem setInputs_waitLeft (l : List (Nat × HostAction)) (s : State) : (setInputs l s).waitLeft = s.waitLeft := rfl
@[simp] theorem setInputs_trace (l : List (Nat × HostAction)) (s : State) : (setInputs l s).trace = s.trace := rfl
@[simp] theorem setInputs_refused (l : List (Nat × HostAction)) (s : State) : (setInputs l s).refused = s.refused := rfl
@[simp] theorem setInputs_stallTicks (l : List (Nat × HostAction)) (s : State) : (setInputs l s).stallTicks = s.stallTicks := rfl
@[simp] theorem setInputs_cfg (l : List (Nat × HostAction)) (s : State) : (setInputs l s).cfg = s.cfg := rfl
@[simp] theorem setInputs_env (l : List (Nat × HostAction)) (s : State) : (setInputs l s).env = { s.env with inputs := l } := rfl

/-! ### drawTx -/

@[simp] theorem drawTx_stat (s : State) : ((drawTx s).2).stat = s.stat := by unfold drawTx; split <;> rfl
@[simp] theorem drawTx_devAddr (s : State) : ((drawTx s).2).devAddr = s.devAddr := by unfold drawTx; split <;> rfl
@[simp] theorem drawTx_len (s : State) : ((drawTx s).2).len = s.len := by unfold drawTx; split <;> rfl
@[simp] theorem drawTx_tx (s : State) : ((drawTx s).2).tx = s.tx := by unfold drawTx; split <;> rfl
@[simp] theorem drawTx_rx (s : State) : ((drawTx s).2).rx = s.rx := by unfold drawTx; split <;> rfl
@[simp] theorem drawTx_devstat (s : State) : ((drawTx s).2).devstat = s.devstat := by unfold drawTx; split <;> rfl
@[simp] theorem drawTx_crcCalc (s : State) : ((drawTx s).2).crcCalc = s.crcCalc := by unfold drawTx; split <;> rfl
@[simp] theorem drawTx_crcRecv (s : State) : ((drawTx s).2).crcRecv = s.crcRecv := by unfold drawTx; split <;> rfl
@[simp] theorem drawTx_rawH (s : State) : ((drawTx s).2).rawH = s.rawH := by unfold drawTx; split <;> rfl
@[simp] theorem drawTx_rawT (s : State) : ((drawTx s).2).rawT = s.rawT := by unfold drawTx; split <;> rfl
@[simp] theorem drawTx_cur (s : State) : ((drawTx s).2).cur = s.cur := by unfold drawTx; split <;> rfl
@[simp] theorem drawTx_seq (s : State) : ((drawTx s).2).seq = s.seq := by unfold drawTx; split <;> rfl
@[simp] theorem drawTx_preFsm (s : State) : ((drawTx s).2).preFsm = s.preFsm := by unfold drawTx; split <;> rfl
@[simp] theorem drawTx_bus (s : State) : ((drawTx s).2).bus = s.bus := by unfold drawTx; split <;> rfl
@[simp] theorem drawTx_waitLeft (s : State) : ((drawTx s).2).waitLeft = s.waitLeft := by unfold drawTx; split <;> rfl
@[simp] theorem drawTx_trace (s : State) : ((drawTx s).2).trace = s.trace := by unfold drawTx; split <;> rfl
@[simp] theorem drawTx_refused (s : State) : ((drawTx s).2).refused = s.refused := by unfold drawTx; split <;> rfl
@[simp] theorem drawTx_stallTicks (s : State) : ((drawTx s).2).stallTicks = s.stallTicks := by unfold drawTx; split <;> rfl
@[simp] theorem drawTx_cfg (s : State) : ((drawTx s).2).cfg = s.cfg := by unfold drawTx; split <;> rfl

/-! ### drawRx -/

@[simp] theorem drawRx_stat (s : State) : ((drawRx s).2).stat = s.stat := by unfold drawRx; split <;> rfl
@[simp] theorem drawRx_devAddr (s : State) : ((drawRx s).2).devAddr = s.devAddr := by unfold drawRx; split <;> rfl
@[simp] theorem drawRx_len (s : State) : ((drawRx s).2).len = s.len := by unfold drawRx; split <;> rfl
@[simp] theorem drawRx_tx (s : State) : ((drawRx s).2).tx = s.tx := by unfold drawRx; split <;> rfl
@[simp] theorem drawRx_rx (s : State) : ((drawRx s).2).rx = s.rx := by unfold drawRx; split <;> rfl
@[simp] theorem drawRx_devstat (s : State) : ((drawRx s).2).devstat = s.devstat := by unfold drawRx; split <;> rfl
@[simp] theorem drawRx_crcCalc (s : State) : ((drawRx s).2).crcCalc = s.crcCalc := by unfold drawRx; split <;> rfl
@[simp] theorem drawRx_crcRecv (s : State) : ((drawRx s).2).crcRecv = s.crcRecv := by unfold drawRx; split <;> rfl
@[simp] theorem drawRx_rawH (s : State) : ((drawRx s).2).rawH = s.rawH := by unfold drawRx; split <;> rfl
@[simp] theorem drawRx_rawT (s : State) : ((drawRx s).2).rawT = s.rawT := by unfold drawRx; split <;> rfl
@[simp] theorem drawRx_cur (s : State) : ((drawRx s).2).cur = s.cur := by unfold drawRx; split <;> rfl
@[simp] theorem drawRx_seq (s : State) : ((drawRx s).2).seq = s.seq := by unfold drawRx; split <;> rfl
@[simp] theorem drawRx_preFsm (s : State) : ((drawRx s).2).preFsm = s.preFsm := by unfold drawRx; split <;> rfl
@[simp] theorem drawRx_bus (s : State) : ((drawRx s).2).bus = s.bus := by unfold drawRx; split <;> rfl
@[simp] theorem drawRx_waitLeft (s : State) : ((drawRx s).2).waitLeft = s.waitLeft := by unfold drawRx; split <;> rfl
@[simp] theorem drawRx_trace (s : State) : ((drawRx s).2).trace = s.trace := by unfold drawRx; split <;> rfl
@[simp] theorem drawRx_refused (s : State) : ((drawRx s).2).refused = s.refused := by unfold drawRx; split <;> rfl
@[simp] theorem drawRx_stallTicks (s : State) : ((drawRx s).2).stallTicks = s.stallTicks := by unfold drawRx; split <;> rfl
@[simp] theorem drawRx_cfg (s : State) : ((drawRx s).2).cfg = s.cfg := by unfold drawRx; split <;> rfl

/-! ### drawWait -/

@[simp] theorem drawWait_stat (s : State) : ((drawWait s).2).stat = s.stat := by unfold drawWait; split <;> rfl
@[simp] theorem drawWait_devAddr (s : State) : ((drawWait s).2).devAddr = s.devAddr := by unfold drawWait; split <;> rfl
@[simp] theorem drawWait_len (s : State) : ((drawWait s).2).len = s.len := by unfold drawWait; split <;> rfl
@[simp] theorem drawWait_tx (s : State) : ((drawWait s).2).tx = s.tx := by unfold drawWait; split <;> rfl
@[simp] theorem drawWait_rx (s : State) : ((drawWait s).2).rx = s.rx := by unfold drawWait; split <;> rfl
@[simp] theorem drawWait_devstat (s : State) : ((drawWait s).2).devstat = s.devstat := by unfold drawWait; split <;> rfl
@[simp] theorem drawWait_crcCalc (s : State) : ((drawWait s).2).crcCalc = s.crcCalc := by unfold drawWait; split <;> rfl
@[simp] theorem drawWait_crcRecv (s : State) : ((drawWait s).2).crcRecv = s.crcRecv := by unfold drawWait; split <;> rfl
@[simp] theorem drawWait_rawH (s : State) : ((drawWait s).2).rawH = s.rawH := by unfold drawWait; split <;> rfl
@[simp] theorem drawWait_rawT (s : State) : ((drawWait s).2).rawT = s.rawT := by unfold drawWait; split <;> rfl
@[simp] theorem drawWait_cur (s : State) : ((drawWait s).2).cur = s.cur := by unfold drawWait; split <;> rfl
@[simp] theorem drawWait_seq (s : State) : ((drawWait s).2).seq = s.seq := by unfold drawWait; split <;> rfl
@[simp] theorem drawWait_preFsm (s : State) : ((drawWait s).2).preFsm = s.preFsm := by unfold drawWait; split <;> rfl
@[simp] theorem drawWait_bus (s : State) : ((drawWait s).2).bus = s.bus := by unfold drawWait; split <;> rfl
@[simp] theorem drawWait_waitLeft (s : State) : ((drawWait s).2).waitLeft = s.waitLeft := by unfold drawWait; split <;> rfl
@[simp] theorem drawWait_trace (s : State) : ((drawWait s).2).trace = s.trace := by unfold drawWait; split <;> rfl
@[simp] theorem drawWait_refused (s : State) : ((drawWait s).2).refused = s.refused := by unfold drawWait; split <;> rfl
@[simp] theorem drawWait_stallTicks (s : State) : ((drawWait s).2).stallTicks = s.stallTicks := by unfold drawWait; split <;> rfl
@[simp] theorem drawWait_cfg (s : State) : ((drawWait s).2).cfg = s.cfg := by unfold drawWait; split <;> rfl

/-! ### stallByte -/

@[simp] theorem stallByte_stat (x : Xfer) (s : State) : (stallByte x s).stat = s.stat := by unfold stallByte; split <;> rfl
@[simp] theorem stallByte_devAddr (x : Xfer) (s : State) : (stallByte x s).devAddr = s.devAddr := by unfold stallByte; split <;> rfl
@[simp] theorem stallByte_len (x : Xfer) (s : State) : (stallByte x s).len = s.len := by unfold stallByte; split <;> rfl
@[simp] theorem stallByte_tx (x : Xfer) (s : State) : (stallByte x s).tx = s.tx := by unfold stallByte; split <;> rfl
@[simp] theorem stallByte_rx (x : Xfer) (s : State) : (stallByte x s).rx = s.rx := by unfold stallByte; split <;> rfl
@[simp] theorem stallByte_devstat (x : Xfer) (s : State) : (stallByte x s).devstat = s.devstat := by unfold stallByte; split <;> rfl
@[simp] theorem stallByte_crcCalc (x : Xfer) (s : State) : (stallByte x s).crcCalc = s.crcCalc := by unfold stallByte; split <;> rfl
@[simp] theorem stallByte_crcRecv (x : Xfer) (s : State) : (stallByte x s).crcRecv = s.crcRecv := by unfold stallByte; split <;> rfl
@[simp] theorem stallByte_rawH (x : Xfer) (s : State) : (stallByte x s).rawH = s.rawH := by unfold stallByte; split <;> rfl
@[simp] theorem stallByte_rawT (x : Xfer) (s : State) : (stallByte x s).rawT = s.rawT := by unfold stallByte; split <;> rfl
@[simp] theorem stallByte_cur (x : Xfer) (s : State) : (stallByte x s).cur = s.cur := by unfold stallByte; split <;> rfl
@[simp] theorem stallByte_preFsm (x : Xfer) (s : State) : (stallByte x s).preFsm = s.preFsm := by unfold stallByte; split <;> rfl
@[simp] theorem stallByte_bus (x : Xfer) (s : State) : (stallByte x s).bus = s.bus := by unfold stallByte; split <;> rfl
@[simp] theorem stallByte_waitLeft (x : Xfer) (s : State) : (stallByte x s).waitLeft = s.waitLeft := by unfold stallByte; split <;> rfl
@[simp] theorem stallByte_refused (x : Xfer) (s : State) : (stallByte x s).refused = s.refused := by unfold stallByte; split <;> rfl
@[simp] theorem stallByte_cfg (x : Xfer) (s : State) : (stallByte x s).cfg = s.cfg := by unfold stallByte; split <;> rfl
@[simp] theorem stallByte_env (x : Xfer) (s : State) : (stallByte x s).env = s.env := by unfold stallByte; split <;> rfl

/-! ### answerTx -/

@[simp] theorem answerTx_stat (x : Xfer) (b : Byte) (q : Seq) (a : TxAnswer) (s : State) : (answerTx x b q a s).stat = s.stat := by cases a <;> simp [answerTx]
@[simp] theorem answerTx_devAddr (x : Xfer) (b : Byte) (q : Seq) (a : TxAnswer) (s : State) : (answerTx x b q a s).devAddr = s.devAddr := by cases a <;> simp [answerTx]
@[simp] theorem answerTx_len (x : Xfer) (b : Byte) (q : Seq) (a : TxAnswer) (s : State) : (answerTx x b q a s).len = s.len := by cases a <;> simp [answerTx]
@[simp] theorem answerTx_tx (x : Xfer) (b : Byte) (q : Seq) (a : TxAnswer) (s : State) : (answerTx x b q a s).tx = s.tx := by cases a <;> simp [answerTx]
@[simp] theorem answerTx_rx (x : Xfer) (b : Byte) (q : Seq) (a : TxAnswer) (s : State) : (answerTx x b q a s).rx = s.rx := by cases a <;> simp [answerTx]
@[simp] theorem answerTx_devstat (x : Xfer) (b : Byte) (q : Seq) (a : TxAnswer) (s : State) : (answerTx x b q a s).devstat = s.devstat := by cases a <;> simp [answerTx]
@[simp] theorem answerTx_crcCalc (x : Xfer) (b : Byte) (q : Seq) (a : TxAnswer) (s : State) : (answerTx x b q a s).crcCalc = s.crcCalc := by cases a <;> simp [answerTx]
@[simp] theorem answerTx_crcRecv (x : Xfer) (b : Byte) (q : Seq) (a : TxAnswer) (s : State) : (answerTx x b q a s).crcRecv = s.crcRecv := by cases a <;> simp [answerTx]
@[simp] theorem answerTx_rawH (x : Xfer) (b : Byte) (q : Seq) (a : TxAnswer) (s : State) : (answerTx x b q a s).rawH = s.rawH := by cases a <;> simp [answerTx]
@[simp] theorem answerTx_rawT (x : Xfer) (b : Byte) (q : Seq) (a : TxAnswer) (s : State) : (answerTx x b q a s).rawT = s.rawT := by cases a <;> simp [answerTx]
@[simp] theorem answerTx_cur (x : Xfer) (b : Byte) (q : Seq) (a : TxAnswer) (s : State) : (answerTx x b q a s).cur = s.cur := by cases a <;> simp [answerTx]
@[simp] theorem answerTx_preFsm (x : Xfer) (b : Byte) (q : Seq) (a : TxAnswer) (s : State) : (answerTx x b q a s).preFsm = s.preFsm := by cases a <;> simp [answerTx]
@[simp] theorem answerTx_bus (x : Xfer) (b : Byte) (q : Seq) (a : TxAnswer) (s : State) : (answerTx x b q a s).bus = s.bus := by cases a <;> simp [answerTx]
@[simp] theorem answerTx_waitLeft (x : Xfer) (b : Byte) (q : Seq) (a : TxAnswer) (s : State) : (answerTx x b q a s).waitLeft = s.waitLeft := by cases a <;> simp [answerTx]
@[simp] theorem answerTx_refused (x : Xfer) (b : Byte) (q : Seq) (a : TxAnswer) (s : State) : (answerTx x b q a s).refused = s.refused := by cases a <;> simp [answerTx]
@[simp] theorem answerTx_cfg (x : Xfer) (b : Byte) (q : Seq) (a : TxAnswer) (s : State) : (answerTx x b q a s).cfg = s.cfg := by cases a <;> simp [answerTx]
@[simp] theorem answerTx_env (x : Xfer) (b : Byte) (q : Seq) (a : TxAnswer) (s : State) : (answerTx x b q a s).env = s.env := by cases a <;> simp [answerTx]

/-! ### transmit -/

@[simp] theorem transmit_stat (x : Xfer) (b : Byte) (q : Seq) (s : State) : (transmit x b q s).stat = s.stat := by simp [transmit]
@[simp] theorem transmit_devAddr (x : Xfer) (b : Byte) (q : Seq) (s : State) : (transmit x b q s).devAddr = s.devAddr := by simp [transmit]
@[simp] theorem transmit_len (x : Xfer) (b : Byte) (q : Seq) (s : State) : (transmit x b q s).len = s.len := by simp [transmit]
@[simp] theorem transmit_tx (x : Xfer) (b : Byte) (q : Seq) (s : State) : (transmit x b q s).tx = s.tx := by simp [transmit]
@[simp] theorem transmit_rx (x : Xfer) (b : Byte) (q : Seq) (s : State) : (transmit x b q s).rx = s.rx := by simp [transmit]
@[simp] theorem transmit_devstat (x : Xfer) (b : Byte) (q : Seq) (s : State) : (transmit x b q s).devstat = s.devstat := by simp [transmit]
@[simp] theorem transmit_crcCalc (x : Xfer) (b : Byte) (q : Seq) (s : State) : (transmit x b q s).crcCalc = s.crcCalc := by simp [transmit]
@[simp] theorem transmit_crcRecv (x : Xfer) (b : Byte) (q : Seq) (s : State) : (transmit x b q s).crcRecv = s.crcRecv := by simp [transmit]
@[simp] theorem transmit_rawH (x : Xfer) (b : Byte) (q : Seq) (s : State) : (transmit x b q s).rawH = s.rawH := by simp [transmit]
@[simp] theorem transmit_rawT (x : Xfer) (b : Byte) (q : Seq) (s : State) : (transmit x b q s).rawT = s.rawT := by simp [transmit]
@[simp] theorem transmit_cur (x : Xfer) (b : Byte) (q : Seq) (s : State) : (transmit x b q s).cur = s.cur := by simp [transmit]
@[simp] theorem transmit_preFsm (x : Xfer) (b : Byte) (q : Seq) (s : State) : (transmit x b q s).preFsm = s.preFsm := by simp [transmit]
@[simp] theorem transmit_bus (x : Xfer) (b : Byte) (q : Seq) (s : State) : (transmit x b q s).bus = s.bus := by simp [transmit]
@[simp] theorem transmit_waitLeft (x : Xfer) (b : Byte) (q : Seq) (s : State) : (transmit x b q s).waitLeft = s.waitLeft := by simp [transmit]
@[simp] theorem transmit_refused (x : Xfer) (b : Byte) (q : Seq) (s : State) : (transmit x b q s).refused = s.refused := by simp [transmit]
@[simp] theorem transmit_cfg (x : Xfer) (b : Byte) (q : Seq) (s : State) : (transmit x b q s).cfg = s.cfg := by simp [transmit]

/-! ### sendByte -/

@[simp] theorem sendByte_stat (x : Xfer) (b : Byte) (i : Nat) (s : State) : (sendByte x b i s).stat = s.stat := by simp [sendByte]
@[simp] theorem sendByte_devAddr (x : Xfer) (b : Byte) (i : Nat) (s : State) : (sendByte x b i s).devAddr = s.devAddr := by simp [sendByte]
@[simp] theorem sendByte_len (x : Xfer) (b : Byte) (i : Nat) (s : State) : (sendByte x b i s).len = s.len := by simp [sendByte]
@[simp] theorem sendByte_tx (x : Xfer) (b : Byte) (i : Nat) (s : State) : (sendByte x b i s).tx = s.tx := by simp [sendByte]
@[simp] theorem sendByte_rx (x : Xfer) (b : Byte) (i : Nat) (s : State) : (sendByte x b i s).rx = s.rx := by simp [sendByte]
@[simp] theorem sendByte_devstat (x : Xfer) (b : Byte) (i : Nat) (s : State) : (sendByte x b i s).devstat = s.devstat := by simp [sendByte]
@[simp] theorem sendByte_crcCalc (x : Xfer) (b : Byte) (i : Nat) (s : State) : (sendByte x b i s).crcCalc = s.crcCalc := by simp [sendByte]
@[simp] theorem sendByte_crcRecv (x : Xfer) (b : Byte) (i : Nat) (s : State) : (sendByte x b i s).crcRecv = s.crcRecv := by simp [sendByte]
@[simp] theorem sendByte_rawH (x : Xfer) (b : Byte) (i : Nat) (s : State) : (sendByte x b i s).rawH = s.rawH := by simp [sendByte]
@[simp] theorem sendByte_rawT (x : Xfer) (b : Byte) (i : Nat) (s : State) : (sendByte x b i s).rawT = s.rawT := by simp [sendByte]
@[simp] theorem sendByte_cur (x : Xfer) (b : Byte) (i : Nat) (s : State) : (sendByte x b i s).cur = s.cur := by simp [sendByte]
@[simp] theorem sendByte_preFsm (x : Xfer) (b : Byte) (i : Nat) (s : State) : (sendByte x b i s).preFsm = s.preFsm := by simp [sendByte]
@[simp] theorem sendByte_bus (x : Xfer) (b : Byte) (i : Nat) (s : State) : (sendByte x b i s).bus = s.bus := by simp [sendByte]
@[simp] theorem sendByte_waitLeft (x : Xfer) (b : Byte) (i : Nat) (s : State) : (sendByte x b i s).waitLeft = s.waitLeft := by simp [sendByte]
@[simp] theorem sendByte_refused (x : Xfer) (b : Byte) (i : Nat) (s : State) : (sendByte x b i s).refused = s.refused := by simp [sendByte]
@[simp] theorem sendByte_cfg (x : Xfer) (b : Byte) (i : Nat) (s : State) : (sendByte x b i s).cfg = s.cfg := by simp [sendByte]

/-! ### answerRx -/

@[simp] theorem answerRx_stat (x : Xfer) (i : Nat) (a : RxAnswer) (s : State) : (answerRx x i a s).stat = s.stat := by cases a <;> simp [answerRx]
@[simp] theorem answerRx_devAddr (x : Xfer) (i : Nat) (a : RxAnswer) (s : State) : (answerRx x i a s).devAddr = s.devAddr := by cases a <;> simp [answerRx]
@[simp] theorem answerRx_len (x : Xfer) (i : Nat) (a : RxAnswer) (s : State) : (answerRx x i a s).len = s.len := by cases a <;> simp [answerRx]
@[simp] theorem answerRx_tx (x : Xfer) (i : Nat) (a : RxAnswer) (s : State) : (answerRx x i a s).tx = s.tx := by cases a <;> simp [answerRx]
@[simp] theorem answerRx_crcCalc (x : Xfer) (i : Nat) (a : RxAnswer) (s : State) : (answerRx x i a s).crcCalc = s.crcCalc := by cases a <;> simp [answerRx]
@[simp] theorem answerRx_crcRecv (x : Xfer) (i : Nat) (a : RxAnswer) (s : State) : (answerRx x i a s).crcRecv = s.crcRecv := by cases a <;> simp [answerRx]
@[simp] theorem answerRx_rawH (x : Xfer) (i : Nat) (a : RxAnswer) (s : State) : (answerRx x i a s).rawH = s.rawH := by cases a <;> simp [answerRx]
@[simp] theorem answerRx_rawT (x : Xfer) (i : Nat) (a : RxAnswer) (s : State) : (answerRx x i a s).rawT = s.rawT := by cases a <;> simp [answerRx]
@[simp] theorem answerRx_cur (x : Xfer) (i : Nat) (a : RxAnswer) (s : State) : (answerRx x i a s).cur = s.cur := by cases a <;> simp [answerRx]
@[simp] theorem answerRx_preFsm (x : Xfer) (i : Nat) (a : RxAnswer) (s : State) : (answerRx x i a s).preFsm = s.preFsm := by cases a <;> simp [answerRx]
@[simp] theorem answerRx_bus (x : Xfer) (i : Nat) (a : RxAnswer) (s : State) : (answerRx x i a s).bus = s.bus := by cases a <;> simp [answerRx]
@[simp] theorem answerRx_waitLeft (x : Xfer) (i : Nat) (a : RxAnswer) (s : State) : (answerRx x i a s).waitLeft = s.waitLeft := by cases a <;> simp [answerRx]
@[simp] theorem answerRx_refused (x : Xfer) (i : Nat) (a : RxAnswer) (s : State) : (answerRx x i a s).refused = s.refused := by cases a <;> simp [answerRx]
@[simp] theorem answerRx_cfg (x : Xfer) (i : Nat) (a : RxAnswer) (s : State) : (answerRx x i a s).cfg = s.cfg := by cases a <;> simp [answerRx]
@[simp] theorem answerRx_env (x : Xfer) (i : Nat) (a : RxAnswer) (s : State) : (answerRx x i a s).env = s.env := by cases a <;> simp [answerRx]

/-! ### receiveByte -/

@[simp] theorem receiveByte_stat (x : Xfer) (i : Nat) (s : State) : (receiveByte x i s).stat = s.stat := by simp [receiveByte]
@[simp] theorem receiveByte_devAddr (x : Xfer) (i : Nat) (s : State) : (receiveByte x i s).devAddr = s.devAddr := by simp [receiveByte]
@[simp] theorem receiveByte_len (x : Xfer) (i : Nat) (s : State) : (receiveByte x i s).len = s.len := by simp [receiveByte]
@[simp] theorem receiveByte_tx (x : Xfer) (i : Nat) (s : State) : (receiveByte x i s).tx = s.tx := by simp [receiveByte]
@[simp] theorem receiveByte_crcCalc (x : Xfer) (i : Nat) (s : State) : (receiveByte x i s).crcCalc = s.crcCalc := by simp [receiveByte]
@[simp] theorem receiveByte_crcRecv (x : Xfer) (i : Nat) (s : State) : (receiveByte x i s).crcRecv = s.crcRecv := by simp [receiveByte]
@[simp] theorem receiveByte_rawH (x : Xfer) (i : Nat) (s : State) : (receiveByte x i s).rawH = s.rawH := by simp [receiveByte]
@[simp] theorem receiveByte_rawT (x : Xfer) (i : Nat) (s : State) : (receiveByte x i s).rawT = s.rawT := by simp [receiveByte]
@[simp] theorem receiveByte_cur (x : Xfer) (i : Nat) (s : State) : (receiveByte x i s).cur = s.cur := by simp [receiveByte]
@[simp] theorem receiveByte_preFsm (x : Xfer) (i : Nat) (s : State) : (receiveByte x i s).preFsm = s.preFsm := by simp [receiveByte]
@[simp] theorem receiveByte_bus (x : Xfer) (i : Nat) (s : State) : (receiveByte x i s).bus = s.bus := by simp [receiveByte]
@[simp] theorem receiveByte_waitLeft (x : Xfer) (i : Nat) (s : State) : (receiveByte x i s).waitLeft = s.waitLeft := by simp [receiveByte]
@[simp] theorem receiveByte_refused (x : Xfer) (i : Nat) (s : State) : (receiveByte x i s).refused = s.refused := by simp [receiveByte]
@[simp] theorem receiveByte_cfg (x : Xfer) (i : Nat) (s : State) : (receiveByte x i s).cfg = s.cfg := by simp [receiveByte]

/-! ### afterFailure -/

@[simp] theorem afterFailure_stat (x : Xfer) (s : State) : (afterFailure x s).stat = s.stat := by unfold afterFailure; split <;> simp
@[simp] theorem afterFailure_devAddr (x : Xfer) (s : State) : (afterFailure x s).devAddr = s.devAddr := by unfold afterFailure; split <;> simp
@[simp] theorem afterFailure_len (x : Xfer) (s : State) : (afterFailure x s).len = s.len := by unfold afterFailure; split <;> simp
@[simp] theorem afterFailure_tx (x : Xfer) (s : State) : (afterFailure x s).tx = s.tx := by unfold afterFailure; split <;> simp
@[simp] theorem afterFailure_devstat (x : Xfer) (s : State) : (afterFailure x s).devstat = s.devstat := by unfold afterFailure; split <;> simp
@[simp] theorem afterFailure_crcCalc (x : Xfer) (s : State) : (afterFailure x s).crcCalc = s.crcCalc := by unfold afterFailure; split <;> simp
@[simp] theorem afterFailure_crcRecv (x : Xfer) (s : State) : (afterFailure x s).crcRecv = s.crcRecv := by unfold afterFailure; split <;> simp
@[simp] theorem afterFailure_rawH (x : Xfer) (s : State) : (afterFailure x s).rawH = s.rawH := by unfold afterFailure; split <;> simp
@[simp] theorem afterFailure_rawT (x : Xfer) (s : State) : (afterFailure x s).rawT = s.rawT := by unfold afterFailure; split <;> simp
@[simp] theorem afterFailure_cur (x : Xfer) (s : State) : (afterFailure x s).cur = s.cur := by unfold afterFailure; split <;> simp
@[simp] theorem afterFailure_seq (x : Xfer) (s : State) : (afterFailure x s).seq = s.seq := by unfold afterFailure; split <;> simp
@[simp] theorem afterFailure_preFsm (x : Xfer) (s : State) : (afterFailure x s).preFsm = s.preFsm := by unfold afterFailure; split <;> simp
@[simp] theorem afterFailure_bus (x : Xfer) (s : State) : (afterFailure x s).bus = s.bus := by unfold afterFailure; split <;> simp
@[simp] theorem afterFailure_waitLeft (x : Xfer) (s : State) : (afterFailure x s).waitLeft = s.waitLeft := by unfold afterFailure; split <;> simp
@[simp] theorem afterFailure_trace (x : Xfer) (s : State) : (afterFailure x s).trace = s.trace := by unfold afterFailure; split <;> simp
@[simp] theorem afterFailure_refused (x : Xfer) (s : State) : (afterFailure x s).refused = s.refused := by unfold afterFailure; split <;> simp
@[simp] theorem afterFailure_stallTicks (x : Xfer) (s : State) : (afterFailure x s).stallTicks = s.stallTicks := by unfold afterFailure; split <;> simp
@[simp] theorem afterFailure_cfg (x : Xfer) (s : State) : (afterFailure x s).cfg = s.cfg := by unfold afterFailure; split <;> simp

/-! ### closeXfer -/

@[simp] theorem closeXfer_stat (x : Xfer) (ok : Bool) (q : Seq) (s : State) : (closeXfer x ok q s).stat = s.stat := by cases ok <;> simp [closeXfer]
@[simp] theorem closeXfer_devAddr (x : Xfer) (ok : Bool) (q : Seq) (s : State) : (closeXfer x ok q s).devAddr = s.devAddr := by cases ok <;> simp [closeXfer]
@[simp] theorem closeXfer_len (x : Xfer) (ok : Bool) (q : Seq) (s : State) : (closeXfer x ok q s).len = s.len := by cases ok <;> simp [closeXfer]
@[simp] theorem closeXfer_tx (x : Xfer) (ok : Bool) (q : Seq) (s : State) : (closeXfer x ok q s).tx = s.tx := by cases ok <;> simp [closeXfer]
@[simp] theorem closeXfer_devstat (x : Xfer) (ok : Bool) (q : Seq) (s : State) : (closeXfer x ok q s).devstat = s.devstat := by cases ok <;> simp [closeXfer]
@[simp] theorem closeXfer_crcCalc (x : Xfer) (ok : Bool) (q : Seq) (s : State) : (closeXfer x ok q s).crcCalc = s.crcCalc := by cases ok <;> simp [closeXfer]
@[simp] theorem closeXfer_crcRecv (x : Xfer) (ok : Bool) (q : Seq) (s : State) : (closeXfer x ok q s).crcRecv = s.crcRecv := by cases ok <;> simp [closeXfer]
@[simp] theorem closeXfer_rawH (x : Xfer) (ok : Bool) (q : Seq) (s : State) : (closeXfer x ok q s).rawH = s.rawH := by cases ok <;> simp [closeXfer]
@[simp] theorem closeXfer_rawT (x : Xfer) (ok : Bool) (q : Seq) (s : State) : (closeXfer x ok q s).rawT = s.rawT := by cases ok <;> simp [closeXfer]
@[simp] theorem closeXfer_cur (x : Xfer) (ok : Bool) (q : Seq) (s : State) : (closeXfer x ok q s).cur = s.cur := by cases ok <;> simp [closeXfer]
@[simp] theorem closeXfer_preFsm (x : Xfer) (ok : Bool) (q : Seq) (s : State) : (closeXfer x ok q s).preFsm = s.preFsm := by cases ok <;> simp [closeXfer]
@[simp] theorem closeXfer_waitLeft (x : Xfer) (ok : Bool) (q : Seq) (s : State) : (closeXfer x ok q s).waitLeft = s.waitLeft := by cases ok <;> simp [closeXfer]
@[simp] theorem closeXfer_refused (x : Xfer) (ok : Bool) (q : Seq) (s : State) : (closeXfer x ok q s).refused = s.refused := by cases ok <;> simp [closeXfer]
@[simp] theorem closeXfer_stallTicks (x : Xfer) (ok : Bool) (q : Seq) (s : State) : (closeXfer x ok q s).stallTicks = s.stallTicks := by cases ok <;> simp [closeXfer]
@[simp] theorem closeXfer_cfg (x : Xfer) (ok : Bool) (q : Seq) (s : State) : (closeXfer x ok q s).cfg = s.cfg := by cases ok <;> simp [closeXfer]

/-! ### absorbFailure -/

@[simp] theorem absorbFailure_stat (x : Xfer) (f : Byte → Seq) (s : State) : (absorbFailure x f s).stat = s.stat := by unfold absorbFailure; split <;> simp
@[simp] theorem absorbFailure_devAddr (x : Xfer) (f : Byte → Seq) (s : State) : (absorbFailure x f s).devAddr = s.devAddr := by unfold absorbFailure; split <;> simp
@[simp] theorem absorbFailure_len (x : Xfer) (f : Byte → Seq) (s : State) : (absorbFailure x f s).len = s.len := by unfold absorbFailure; split <;> simp
@[simp] theorem absorbFailure_tx (x : Xfer) (f : Byte → Seq) (s : State) : (absorbFailure x f s).tx = s.tx := by unfold absorbFailure; split <;> simp
@[simp] theorem absorbFailure_crcCalc (x : Xfer) (f : Byte → Seq) (s : State) : (absorbFailure x f s).crcCalc = s.crcCalc := by unfold absorbFailure; split <;> simp
@[simp] theorem absorbFailure_crcRecv (x : Xfer) (f : Byte → Seq) (s : State) : (absorbFailure x f s).crcRecv = s.crcRecv := by unfold absorbFailure; split <;> simp
@[simp] theorem absorbFailure_rawH (x : Xfer) (f : Byte → Seq) (s : State) : (absorbFailure x f s).rawH = s.rawH := by unfold absorbFailure; split <;> simp
@[simp] theorem absorbFailure_rawT (x : Xfer) (f : Byte → Seq) (s : State) : (absorbFailure x f s).rawT = s.rawT := by unfold absorbFailure; split <;> simp
@[simp] theorem absorbFailure_cur (x : Xfer) (f : Byte → Seq) (s : State) : (absorbFailure x f s).cur = s.cur := by unfold absorbFailure; split <;> simp
@[simp] theorem absorbFailure_preFsm (x : Xfer) (f : Byte → Seq) (s : State) : (absorbFailure x f s).preFsm = s.preFsm := by unfold absorbFailure; split <;> simp
@[simp] theorem absorbFailure_waitLeft (x : Xfer) (f : Byte → Seq) (s : State) : (absorbFailure x f s).waitLeft = s.waitLeft := by unfold absorbFailure; split <;> simp
@[simp] theorem absorbFailure_refused (x : Xfer) (f : Byte → Seq) (s : State) : (absorbFailure x f s).refused = s.refused := by unfold absorbFailure; split <;> simp
@[simp] theorem absorbFailure_stallTicks (x : Xfer) (f : Byte → Seq) (s : State) : (absorbFailure x f s).stallTicks = s.stallTicks := by unfold absorbFailure; split <;> simp
@[simp] theorem absorbFailure_cfg (x : Xfer) (f : Byte → Seq) (s : State) : (absorbFailure x f s).cfg = s.cfg := by unfold absorbFailure; split <;> simp

/-! ### closeStatusWrite -/

@[simp] theorem closeStatusWrite_stat (again ok : Bool) (f : Byte → Seq) (s : State) : (closeStatusWrite again ok f s).stat = s.stat := by cases ok <;> simp [closeStatusWrite]
@[simp] theorem closeStatusWrite_devAddr (again ok : Bool) (f : Byte → Seq) (s : State) : (closeStatusWrite again ok f s).devAddr = s.devAddr := by cases ok <;> simp [closeStatusWrite]
@[simp] theorem closeStatusWrite_len (again ok : Bool) (f : Byte → Seq) (s : State) : (closeStatusWrite again ok f s).len = s.len := by cases ok <;> simp [closeStatusWrite]
@[simp] theorem closeStatusWrite_tx (again ok : Bool) (f : Byte → Seq) (s : State) : (closeStatusWrite again ok f s).tx = s.tx := by cases ok <;> simp [closeStatusWrite]
@[simp] theorem closeStatusWrite_crcCalc (again ok : Bool) (f : Byte → Seq) (s : State) : (closeStatusWrite again ok f s).crcCalc = s.crcCalc := by cases ok <;> simp [closeStatusWrite]
@[simp] theorem closeStatusWrite_crcRecv (again ok : Bool) (f : Byte → Seq) (s : State) : (closeStatusWrite again ok f s).crcRecv = s.crcRecv := by cases ok <;> simp [closeStatusWrite]
@[simp] theorem closeStatusWrite_rawH (again ok : Bool) (f : Byte → Seq) (s : State) : (closeStatusWrite again ok f s).rawH = s.rawH := by cases ok <;> simp [closeStatusWrite]
@[simp] theorem closeStatusWrite_rawT (again ok : Bool) (f : Byte → Seq) (s : State) : (closeStatusWrite again ok f s).rawT = s.rawT := by cases ok <;> simp [closeStatusWrite]
@[simp] theorem closeStatusWrite_cur (again ok : Bool) (f : Byte → Seq) (s : State) : (closeStatusWrite again ok f s).cur = s.cur := by cases ok <;> simp [closeStatusWrite]
@[simp] theorem closeStatusWrite_preFsm (again ok : Bool) (f : Byte → Seq) (s : State) : (closeStatusWrite again ok f s).preFsm = s.preFsm := by cases ok <;> simp [closeStatusWrite]
@[simp] theorem closeStatusWrite_waitLeft (again ok : Bool) (f : Byte → Seq) (s : State) : (closeStatusWrite again ok f s).waitLeft = s.waitLeft := by cases ok <;> simp [closeStatusWrite]
@[simp] theorem closeStatusWrite_refused (again ok : Bool) (f : Byte → Seq) (s : State) : (closeStatusWrite again ok f s).refused = s.refused := by cases ok <;> simp [closeStatusWrite]
@[simp] theorem closeStatusWrite_stallTicks (again ok : Bool) (f : Byte → Seq) (s : State) : (closeStatusWrite again ok f s).stallTicks = s.stallTicks := by cases ok <;> simp [closeStatusWrite]
@[simp] theorem closeStatusWrite_cfg (again ok : Bool) (f : Byte → Seq) (s : State) : (closeStatusWrite again ok f s).cfg = s.cfg := by cases ok <;> simp [closeStatusWrite]

/-! ### closeStatusRead -/

@[simp] theorem closeStatusRead_stat (again ok : Bool) (f : Byte → Seq) (s : State) : (closeStatusRead again ok f s).stat = s.stat := by cases ok <;> simp [closeStatusRead]
@[simp] theorem closeStatusRead_devAddr (again ok : Bool) (f : Byte → Seq) (s : State) : (closeStatusRead again ok f s).devAddr = s.devAddr := by cases ok <;> simp [closeStatusRead]
@[simp] theorem closeStatusRead_len (again ok : Bool) (f : Byte → Seq) (s : State) : (closeStatusRead again ok f s).len = s.len := by cases ok <;> simp [closeStatusRead]
@[simp] theorem closeStatusRead_tx (again ok : Bool) (f : Byte → Seq) (s : State) : (closeStatusRead again ok f s).tx = s.tx := by cases ok <;> simp [closeStatusRead]
@[simp] theorem closeStatusRead_crcCalc (again ok : Bool) (f : Byte → Seq) (s : State) : (closeStatusRead again ok f s).crcCalc = s.crcCalc := by cases ok <;> simp [closeStatusRead]
@[simp] theorem closeStatusRead_crcRecv (again ok : Bool) (f : Byte → Seq) (s : State) : (closeStatusRead again ok f s).crcRecv = s.crcRecv := by cases ok <;> simp [closeStatusRead]
@[simp] theorem closeStatusRead_rawH (again ok : Bool) (f : Byte → Seq) (s : State) : (closeStatusRead again ok f s).rawH = s.rawH := by cases ok <;> simp [closeStatusRead]
@[simp] theorem closeStatusRead_rawT (again ok : Bool) (f : Byte → Seq) (s : State) : (closeStatusRead again ok f s).rawT = s.rawT := by cases ok <;> simp [closeStatusRead]
@[simp] theorem closeStatusRead_cur (again ok : Bool) (f : Byte → Seq) (s : State) : (closeStatusRead again ok f s).cur = s.cur := by cases ok <;> simp [closeStatusRead]
@[simp] theorem closeStatusRead_preFsm (again ok : Bool) (f : Byte → Seq) (s : State) : (closeStatusRead again ok f s).preFsm = s.preFsm := by cases ok <;> simp [closeStatusRead]
@[simp] theorem closeStatusRead_waitLeft (again ok : Bool) (f : Byte → Seq) (s : State) : (closeStatusRead again ok f s).waitLeft = s.waitLeft := by cases ok <;> simp [closeStatusRead]
@[simp] theorem closeStatusRead_refused (again ok : Bool) (f : Byte → Seq) (s : State) : (closeStatusRead again ok f s).refused = s.refused := by cases ok <;> simp [closeStatusRead]
@[simp] theorem closeStatusRead_stallTicks (again ok : Bool) (f : Byte → Seq) (s : State) : (closeStatusRead again ok f s).stallTicks = s.stallTicks := by cases ok <;> simp [closeStatusRead]
@[simp] theorem closeStatusRead_cfg (again ok : Bool) (f : Byte → Seq) (s : State) : (closeStatusRead again ok f s).cfg = s.cfg := by cases ok <;> simp [closeStatusRead]

/-! ### beginWait -/

@[simp] theorem beginWait_stat (w : Settle) (q : Seq) (s : State) : (beginWait w q s).stat = s.stat := by simp [beginWait]
@[simp] theorem beginWait_devAddr (w : Settle) (q : Seq) (s : State) : (beginWait w q s).devAddr = s.devAddr := by simp [beginWait]
@[simp] theorem beginWait_len (w : Settle) (q : Seq) (s : State) : (beginWait w q s).len = s.len := by simp [beginWait]
@[simp] theorem beginWait_tx (w : Settle) (q : Seq) (s : State) : (beginWait w q s).tx = s.tx := by simp [beginWait]
@[simp] theorem beginWait_rx (w : Settle) (q : Seq) (s : State) : (beginWait w q s).rx = s.rx := by simp [beginWait]
@[simp] theorem beginWait_devstat (w : Settle) (q : Seq) (s : State) : (beginWait w q s).devstat = s.devstat := by simp [beginWait]
@[simp] theorem beginWait_crcCalc (w : Settle) (q : Seq) (s : State) : (beginWait w q s).crcCalc = s.crcCalc := by simp [beginWait]
@[simp] theorem beginWait_crcRecv (w : Settle) (q : Seq) (s : State) : (beginWait w q s).crcRecv = s.crcRecv := by simp [beginWait]
@[simp] theorem beginWait_rawH (w : Settle) (q : Seq) (s : State) : (beginWait w q s).rawH = s.rawH := by simp [beginWait]
@[simp] theorem beginWait_rawT (w : Settle) (q : Seq) (s : State) : (beginWait w q s).rawT = s.rawT := by simp [beginWait]
@[simp] theorem beginWait_cur (w : Settle) (q : Seq) (s : State) : (beginWait w q s).cur = s.cur := by simp [beginWait]
@[simp] theorem beginWait_preFsm (w : Settle) (q : Seq) (s : State) : (beginWait w q s).preFsm = s.preFsm := by simp [beginWait]
@[simp] theorem beginWait_bus (w : Settle) (q : Seq) (s : State) : (beginWait w q s).bus = s.bus := by simp [beginWait]
@[simp] theorem beginWait_refused (w : Settle) (q : Seq) (s : State) : (beginWait w q s).refused = s.refused := by simp [beginWait]
@[simp] theorem beginWait_stallTicks (w : Settle) (q : Seq) (s : State) : (beginWait w q s).stallTicks = s.stallTicks := by simp [beginWait]
@[simp] theorem beginWait_cfg (w : Settle) (q : Seq) (s : State) : (beginWait w q s).cfg = s.cfg := by simp [beginWait]

/-! ### issue -/

@[simp] theorem issue_devAddr (c : HostCmd) (s : State) : (issue c s).devAddr = s.devAddr := by unfold issue; split <;> simp
@[simp] theorem issue_len (c : HostCmd) (s : State) : (issue c s).len = s.len := by unfold issue; split <;> simp
@[simp] theorem issue_tx (c : HostCmd) (s : State) : (issue c s).tx = s.tx := by unfold issue; split <;> simp
@[simp] theorem issue_rx (c : HostCmd) (s : State) : (issue c s).rx = s.rx := by unfold issue; split <;> simp
@[simp] theorem issue_devstat (c : HostCmd) (s : State) : (issue c s).devstat = s.devstat := by unfold issue; split <;> simp
@[simp] theorem issue_crcCalc (c : HostCmd) (s : State) : (issue c s).crcCalc = s.crcCalc := by unfold issue; split <;> simp
@[simp] theorem issue_crcRecv (c : HostCmd) (s : State) : (issue c s).crcRecv = s.crcRecv := by unfold issue; split <;> simp
@[simp] theorem issue_rawH (c : HostCmd) (s : State) : (issue c s).rawH = s.rawH := by unfold issue; split <;> simp
@[simp] theorem issue_rawT (c : HostCmd) (s : State) : (issue c s).rawT = s.rawT := by unfold issue; split <;> simp
@[simp] theorem issue_bus (c : HostCmd) (s : State) : (issue c s).bus = s.bus := by unfold issue; split <;> simp
@[simp] theorem issue_waitLeft (c : HostCmd) (s : State) : (issue c s).waitLeft = s.waitLeft := by unfold issue; split <;> simp
@[simp] theorem issue_trace (c : HostCmd) (s : State) : (issue c s).trace = s.trace := by unfold issue; split <;> simp
@[simp] theorem issue_stallTicks (c : HostCmd) (s : State) : (issue c s).stallTicks = s.stallTicks := by unfold issue; split <;> simp
@[simp] theorem issue_cfg (c : HostCmd) (s : State) : (issue c s).cfg = s.cfg := by unfold issue; split <;> simp
@[simp] theorem issue_env (c : HostCmd) (s : State) : (issue c s).env = s.env := by unfold issue; split <;> simp

/-! ### readMapped -/

@[simp] theorem readMapped_stat (r : RegName) (off : Offset) (s : State) : (readMapped r off s).stat = s.stat := by unfold readMapped; split <;> simp
@[simp] theorem readMapped_devAddr (r : RegName) (off : Offset) (s : State) : (readMapped r off s).devAddr = s.devAddr := by unfold readMapped; split <;> simp
@[simp] theorem readMapped_len (r : RegName) (off : Offset) (s : State) : (readMapped r off s).len = s.len := by unfold readMapped; split <;> simp
@[simp] theorem readMapped_tx (r : RegName) (off : Offset) (s : State) : (readMapped r off s).tx = s.tx := by unfold readMapped; split <;> simp
@[simp] theorem readMapped_rx (r : RegName) (off : Offset) (s : State) : (readMapped r off s).rx = s.rx := by unfold readMapped; split <;> simp
@[simp] theorem readMapped_devstat (r : RegName) (off : Offset) (s : State) : (readMapped r off s).devstat = s.devstat := by unfold readMapped; split <;> simp
@[simp] theorem readMapped_crcCalc (r : RegName) (off : Offset) (s : State) : (readMapped r off s).crcCalc = s.crcCalc := by unfold readMapped; split <;> simp
@[simp] theorem readMapped_crcRecv (r : RegName) (off : Offset) (s : State) : (readMapped r off s).crcRecv = s.crcRecv := by unfold readMapped; split <;> simp
@[simp] theorem readMapped_rawH (r : RegName) (off : Offset) (s : State) : (readMapped r off s).rawH = s.rawH := by unfold readMapped; split <;> simp
@[simp] theorem readMapped_rawT (r : RegName) (off : Offset) (s : State) : (readMapped r off s).rawT = s.rawT := by unfold readMapped; split <;> simp
@[simp] theorem readMapped_cur (r : RegName) (off : Offset) (s : State) : (readMapped r off s).cur = s.cur := by unfold readMapped; split <;> simp
@[simp] theorem readMapped_seq (r : RegName) (off : Offset) (s : State) : (readMapped r off s).seq = s.seq := by unfold readMapped; split <;> simp
@[simp] theorem readMapped_preFsm (r : RegName) (off : Offset) (s : State) : (readMapped r off s).preFsm = s.preFsm := by unfold readMapped; split <;> simp
@[simp] theorem readMapped_bus (r : RegName) (off : Offset) (s : State) : (readMapped r off s).bus = s.bus := by unfold readMapped; split <;> simp
@[simp] theorem readMapped_waitLeft (r : RegName) (off : Offset) (s : State) : (readMapped r off s).waitLeft = s.waitLeft := by unfold readMapped; split <;> simp
@[simp] theorem readMapped_trace (r : RegName) (off : Offset) (s : State) : (readMapped r off s).trace = s.trace := by unfold readMapped; split <;> simp
@[simp] theorem readMapped_refused (r : RegName) (off : Offset) (s : State) : (readMapped r off s).refused = s.refused := by unfold readMapped; split <;> simp
@[simp] theorem readMapped_stallTicks (r : RegName) (off : Offset) (s : State) : (readMapped r off s).stallTicks = s.stallTicks := by unfold readMapped; split <;> simp
@[simp] theorem readMapped_cfg (r : RegName) (off : Offset) (s : State) : (readMapped r off s).cfg = s.cfg := by unfold readMapped; split <;> simp

/-! ### hostRead -/

@[simp] theorem hostRead_stat (n : Nat) (off : Offset) (s : State) : (hostRead n off s).stat = s.stat := by unfold hostRead; split <;> simp
@[simp] theorem hostRead_devAddr (n : Nat) (off : Offset) (s : State) : (hostRead n off s).devAddr = s.devAddr := by unfold hostRead; split <;> simp
@[simp] theorem hostRead_len (n : Nat) (off : Offset) (s : State) : (hostRead n off s).len = s.len := by unfold hostRead; split <;> simp
@[simp] theorem hostRead_tx (n : Nat) (off : Offset) (s : State) : (hostRead n off s).tx = s.tx := by unfold hostRead; split <;> simp
@[simp] theorem hostRead_rx (n : Nat) (off : Offset) (s : State) : (hostRead n off s).rx = s.rx := by unfold hostRead; split <;> simp
@[simp] theorem hostRead_devstat (n : Nat) (off : Offset) (s : State) : (hostRead n off s).devstat = s.devstat := by unfold hostRead; split <;> simp
@[simp] theorem hostRead_crcCalc (n : Nat) (off : Offset) (s : State) : (hostRead n off s).crcCalc = s.crcCalc := by unfold hostRead; split <;> simp
@[simp] theorem hostRead_crcRecv (n : Nat) (off : Offset) (s : State) : (hostRead n off s).crcRecv = s.crcRecv := by unfold hostRead; split <;> simp
@[simp] theorem hostRead_rawH (n : Nat) (off : Offset) (s : State) : (hostRead n off s).rawH = s.rawH := by unfold hostRead; split <;> simp
@[simp] theorem hostRead_rawT (n : Nat) (off : Offset) (s : State) : (hostRead n off s).rawT = s.rawT := by unfold hostRead; split <;> simp
@[simp] theorem hostRead_cur (n : Nat) (off : Offset) (s : State) : (hostRead n off s).cur = s.cur := by unfold hostRead; split <;> simp
@[simp] theorem hostRead_seq (n : Nat) (off : Offset) (s : State) : (hostRead n off s).seq = s.seq := by unfold hostRead; split <;> simp
@[simp] theorem hostRead_preFsm (n : Nat) (off : Offset) (s : State) : (hostRead n off s).preFsm = s.preFsm := by unfold hostRead; split <;> simp
@[simp] theorem hostRead_bus (n : Nat) (off : Offset) (s : State) : (hostRead n off s).bus = s.bus := by unfold hostRead; split <;> simp
@[simp] theorem hostRead_waitLeft (n : Nat) (off : Offset) (s : State) : (hostRead n off s).waitLeft = s.waitLeft := by unfold hostRead; split <;> simp
@[simp] theorem hostRead_trace (n : Nat) (off : Offset) (s : State) : (hostRead n off s).trace = s.trace := by unfold hostRead; split <;> simp
@[simp] theorem hostRead_stallTicks (n : Nat) (off : Offset) (s : State) : (hostRead n off s).stallTicks = s.stallTicks := by unfold hostRead; split <;> simp
@[simp] theorem hostRead_cfg (n : Nat) (off : Offset) (s : State) : (hostRead n off s).cfg = s.cfg := by unfold hostRead; split <;> simp

/-! ### storeReg -/

@[simp] theorem storeReg_stat (r : RegName) (v : Word) (s : State) : (storeReg r v s).stat = s.stat := by cases r <;> rfl
@[simp] theorem storeReg_rx (r : RegName) (v : Word) (s : State) : (storeReg r v s).rx = s.rx := by cases r <;> rfl
@[simp] theorem storeReg_devstat (r : RegName) (v : Word) (s : State) : (storeReg r v s).devstat = s.devstat := by cases r <;> rfl
@[simp] theorem storeReg_crcCalc (r : RegName) (v : Word) (s : State) : (storeReg r v s).crcCalc = s.crcCalc := by cases r <;> rfl
@[simp] theorem storeReg_crcRecv (r : RegName) (v : Word) (s : State) : (storeReg r v s).crcRecv = s.crcRecv := by cases r <;> rfl
@[simp] theorem storeReg_rawH (r : RegName) (v : Word) (s : State) : (storeReg r v s).rawH = s.rawH := by cases r <;> rfl
@[simp] theorem storeReg_rawT (r : RegName) (v : Word) (s : State) : (storeReg r v s).rawT = s.rawT := by cases r <;> rfl
@[simp] theorem storeReg_cur (r : RegName) (v : Word) (s : State) : (storeReg r v s).cur = s.cur := by cases r <;> rfl
@[simp] theorem storeReg_seq (r : RegName) (v : Word) (s : State) : (storeReg r v s).seq = s.seq := by cases r <;> rfl
@[simp] theorem storeReg_preFsm (r : RegName) (v : Word) (s : State) : (storeReg r v s).preFsm = s.preFsm := by cases r <;> rfl
@[simp] theorem storeReg_bus (r : RegName) (v : Word) (s : State) : (storeReg r v s).bus = s.bus := by cases r <;> rfl
@[simp] theorem storeReg_waitLeft (r : RegName) (v : Word) (s : State) : (storeReg r v s).waitLeft = s.waitLeft := by cases r <;> rfl
@[simp] theorem storeReg_trace (r : RegName) (v : Word) (s : State) : (storeReg r v s).trace = s.trace := by cases r <;> rfl
@[simp] theorem storeReg_refused (r : RegName) (v : Word) (s : State) : (storeReg r v s).refused = s.refused := by cases r <;> rfl
@[simp] theorem storeReg_stallTicks (r : RegName) (v : Word) (s : State) : (storeReg r v s).stallTicks = s.stallTicks := by cases r <;> rfl
@[simp] theorem storeReg_cfg (r : RegName) (v : Word) (s : State) : (storeReg r v s).cfg = s.cfg := by cases r <;> rfl
@[simp] theorem storeReg_env (r : RegName) (v : Word) (s : State) : (storeReg r v s).env = s.env := by cases r <;> rfl

/-! ### storeAt -/

@[simp] theorem storeAt_stat (off : Offset) (v : Word) (s : State) : (storeAt off v s).stat = s.stat := by unfold storeAt; split <;> simp
@[simp] theorem storeAt_rx (off : Offset) (v : Word) (s : State) : (storeAt off v s).rx = s.rx := by unfold storeAt; split <;> simp
@[simp] theorem storeAt_devstat (off : Offset) (v : Word) (s : State) : (storeAt off v s).devstat = s.devstat := by unfold storeAt; split <;> simp
@[simp] theorem storeAt_crcCalc (off : Offset) (v : Word) (s : State) : (storeAt off v s).crcCalc = s.crcCalc := by unfold storeAt; split <;> simp
@[simp] theorem storeAt_crcRecv (off : Offset) (v : Word) (s : State) : (storeAt off v s).crcRecv = s.crcRecv := by unfold storeAt; split <;> simp
@[simp] theorem storeAt_rawH (off : Offset) (v : Word) (s : State) : (storeAt off v s).rawH = s.rawH := by unfold storeAt; split <;> simp
@[simp] theorem storeAt_rawT (off : Offset) (v : Word) (s : State) : (storeAt off v s).rawT = s.rawT := by unfold storeAt; split <;> simp
@[simp] theorem storeAt_cur (off : Offset) (v : Word) (s : State) : (storeAt off v s).cur = s.cur := by unfold storeAt; split <;> simp
@[simp] theorem storeAt_seq (off : Offset) (v : Word) (s : State) : (storeAt off v s).seq = s.seq := by unfold storeAt; split <;> simp
@[simp] theorem storeAt_preFsm (off : Offset) (v : Word) (s : State) : (storeAt off v s).preFsm = s.preFsm := by unfold storeAt; split <;> simp
@[simp] theorem storeAt_bus (off : Offset) (v : Word) (s : State) : (storeAt off v s).bus = s.bus := by unfold storeAt; split <;> simp
@[simp] theorem storeAt_waitLeft (off : Offset) (v : Word) (s : State) : (storeAt off v s).waitLeft = s.waitLeft := by unfold storeAt; split <;> simp
@[simp] theorem storeAt_trace (off : Offset) (v : Word) (s : State) : (storeAt off v s).trace = s.trace := by unfold storeAt; split <;> simp
@[simp] theorem storeAt_refused (off : Offset) (v : Word) (s : State) : (storeAt off v s).refused = s.refused := by unfold storeAt; split <;> simp
@[simp] theorem storeAt_stallTicks (off : Offset) (v : Word) (s : State) : (storeAt off v s).stallTicks = s.stallTicks := by unfold storeAt; split <;> simp
@[simp] theorem storeAt_cfg (off : Offset) (v : Word) (s : State) : (storeAt off v s).cfg = s.cfg := by unfold storeAt; split <;> simp
@[simp] theorem storeAt_env (off : Offset) (v : Word) (s : State) : (storeAt off v s).env = s.env := by unfold storeAt; split <;> simp

/-! ### pollStat -/

@[simp] theorem pollStat_stat (gap : Nat) (s : State) : (pollStat gap s).stat = s.stat := by unfold pollStat; split <;> simp
@[simp] theorem pollStat_devAddr (gap : Nat) (s : State) : (pollStat gap s).devAddr = s.devAddr := by unfold pollStat; split <;> simp
@[simp] theorem pollStat_len (gap : Nat) (s : State) : (pollStat gap s).len = s.len := by unfold pollStat; split <;> simp
@[simp] theorem pollStat_tx (gap : Nat) (s : State) : (pollStat gap s).tx = s.tx := by unfold pollStat; split <;> simp
@[simp] theorem pollStat_rx (gap : Nat) (s : State) : (pollStat gap s).rx = s.rx := by unfold pollStat; split <;> simp
@[simp] theorem pollStat_devstat (gap : Nat) (s : State) : (pollStat gap s).devstat = s.devstat := by unfold pollStat; split <;> simp
@[simp] theorem pollStat_crcCalc (gap : Nat) (s : State) : (pollStat gap s).crcCalc = s.crcCalc := by unfold pollStat; split <;> simp
@[simp] theorem pollStat_crcRecv (gap : Nat) (s : State) : (pollStat gap s).crcRecv = s.crcRecv := by unfold pollStat; split <;> simp
@[simp] theorem pollStat_rawH (gap : Nat) (s : State) : (pollStat gap s).rawH = s.rawH := by unfold pollStat; split <;> simp
@[simp] theorem pollStat_rawT (gap : Nat) (s : State) : (pollStat gap s).rawT = s.rawT := by unfold pollStat; split <;> simp
@[simp] theorem pollStat_cur (gap : Nat) (s : State) : (pollStat gap s).cur = s.cur := by unfold pollStat; split <;> simp
@[simp] theorem pollStat_seq (gap : Nat) (s : State) : (pollStat gap s).seq = s.seq := by unfold pollStat; split <;> simp
@[simp] theorem pollStat_preFsm (gap : Nat) (s : State) : (pollStat gap s).preFsm = s.preFsm := by unfold pollStat; split <;> simp
@[simp] theorem pollStat_bus (gap : Nat) (s : State) : (pollStat gap s).bus = s.bus := by unfold pollStat; split <;> simp
@[simp] theorem pollStat_waitLeft (gap : Nat) (s : State) : (pollStat gap s).waitLeft = s.waitLeft := by unfold pollStat; split <;> simp
@[simp] theorem pollStat_trace (gap : Nat) (s : State) : (pollStat gap s).trace = s.trace := by unfold pollStat; split <;> simp
@[simp] theorem pollStat_refused (gap : Nat) (s : State) : (pollStat gap s).refused = s.refused := by unfold pollStat; split <;> simp
@[simp] theorem pollStat_stallTicks (gap : Nat) (s : State) : (pollStat gap s).stallTicks = s.stallTicks := by unfold pollStat; split <;> simp
@[simp] theorem pollStat_cfg (gap : Nat) (s : State) : (pollStat gap s).cfg = s.cfg := by unfold pollStat; split <;> simp

/-! ### evaluateFrame -/

@[simp] theorem evaluateFrame_devAddr (c : Bool) (s : State) : (evaluateFrame c s).devAddr = s.devAddr := by
  unfold evaluateFrame; dsimp only; repeat' split
  all_goals simp
@[simp] theorem evaluateFrame_len (c : Bool) (s : State) : (evaluateFrame c s).len = s.len := by
  unfold evaluateFrame; dsimp only; repeat' split
  all_goals simp
@[simp] theorem evaluateFrame_tx (c : Bool) (s : State) : (evaluateFrame c s).tx = s.tx := by
  unfold evaluateFrame; dsimp only; repeat' split
  all_goals simp
@[simp] theorem evaluateFrame_rx (c : Bool) (s : State) : (evaluateFrame c s).rx = s.rx := by
  unfold evaluateFrame; dsimp only; repeat' split
  all_goals simp
@[simp] theorem evaluateFrame_preFsm (c : Bool) (s : State) : (evaluateFrame c s).preFsm = s.preFsm := by
  unfold evaluateFrame; dsimp only; repeat' split
  all_goals simp
@[simp] theorem evaluateFrame_bus (c : Bool) (s : State) : (evaluateFrame c s).bus = s.bus := by
  unfold evaluateFrame; dsimp only; repeat' split
  all_goals simp
@[simp] theorem evaluateFrame_waitLeft (c : Bool) (s : State) : (evaluateFrame c s).waitLeft = s.waitLeft := by
  unfold evaluateFrame; dsimp only; repeat' split
  all_goals simp
@[simp] theorem evaluateFrame_trace (c : Bool) (s : State) : (evaluateFrame c s).trace = s.trace := by
  unfold evaluateFrame; dsimp only; repeat' split
  all_goals simp
@[simp] theorem evaluateFrame_refused (c : Bool) (s : State) : (evaluateFrame c s).refused = s.refused := by
  unfold evaluateFrame; dsimp only; repeat' split
  all_goals simp
@[simp] theorem evaluateFrame_stallTicks (c : Bool) (s : State) : (evaluateFrame c s).stallTicks = s.stallTicks := by
  unfold evaluateFrame; dsimp only; repeat' split
  all_goals simp
@[simp] theorem evaluateFrame_cfg (c : Bool) (s : State) : (evaluateFrame c s).cfg = s.cfg := by
  unfold evaluateFrame; dsimp only; repeat' split
  all_goals simp
@[simp] theorem evaluateFrame_env (c : Bool) (s : State) : (evaluateFrame c s).env = s.env := by
  unfold evaluateFrame; dsimp only; repeat' split
  all_goals simp

/-! ### beginMeasure -/

@[simp] theorem beginMeasure_devAddr (s : State) : (beginMeasure s).devAddr = s.devAddr := by unfold beginMeasure; split <;> simp
@[simp] theorem beginMeasure_len (s : State) : (beginMeasure s).len = s.len := by unfold beginMeasure; split <;> simp
@[simp] theorem beginMeasure_tx (s : State) : (beginMeasure s).tx = s.tx := by unfold beginMeasure; split <;> simp
@[simp] theorem beginMeasure_rx (s : State) : (beginMeasure s).rx = s.rx := by unfold beginMeasure; split <;> simp
@[simp] theorem beginMeasure_devstat (s : State) : (beginMeasure s).devstat = s.devstat := by unfold beginMeasure; split <;> simp
@[simp] theorem beginMeasure_crcCalc (s : State) : (beginMeasure s).crcCalc = s.crcCalc := by unfold beginMeasure; split <;> simp
@[simp] theorem beginMeasure_crcRecv (s : State) : (beginMeasure s).crcRecv = s.crcRecv := by unfold beginMeasure; split <;> simp
@[simp] theorem beginMeasure_rawH (s : State) : (beginMeasure s).rawH = s.rawH := by unfold beginMeasure; split <;> simp
@[simp] theorem beginMeasure_rawT (s : State) : (beginMeasure s).rawT = s.rawT := by unfold beginMeasure; split <;> simp
@[simp] theorem beginMeasure_preFsm (s : State) : (beginMeasure s).preFsm = s.preFsm := by unfold beginMeasure; split <;> simp
@[simp] theorem beginMeasure_waitLeft (s : State) : (beginMeasure s).waitLeft = s.waitLeft := by unfold beginMeasure; split <;> simp
@[simp] theorem beginMeasure_refused (s : State) : (beginMeasure s).refused = s.refused := by unfold beginMeasure; split <;> simp
@[simp] theorem beginMeasure_cfg (s : State) : (beginMeasure s).cfg = s.cfg := by unfold beginMeasure; split <;> simp
@[simp] theorem beginMeasure_env (s : State) : (beginMeasure s).env = s.env := by unfold beginMeasure; split <;> simp

end Sys2Proof.Laws
end

