-- ==== Sys2Proof/Laws/Ops.lean ====
section
/-! SUPPORT. One lemma per shared operation that says everything it can do, and the inversion of a
step: provers cite these instead of unfolding the machine. -/

namespace Sys2Proof.Laws

open Sys2Proof.Machine

/-! ### The trace grammar -/

theorem tracePhase_append (l : List BusEvent) (e : BusEvent) :
    tracePhase (l ++ [e]) = (tracePhase l).bind fun q => q.next e := by
  simp [tracePhase, List.foldl_append]

theorem addressByte_bit0 (a : BusAddr) (d : Dir) : (addressByte a d).getLsbD 0 = decide (d = .read) := by
  cases d <;> simp [addressByte]

/-! ### Positions -/

theorem dataOrStop_cases (x : Xfer) (i n : Nat) :
    (i < n ∧ dataOrStop x i n = .data x i) ∨ (n ≤ i ∧ dataOrStop x i n = .stop x true) := by
  unfold dataOrStop; split
  · exact .inl ⟨by assumption, rfl⟩
  · exact .inr ⟨by omega, rfl⟩

theorem dataOrStop_lt {x : Xfer} {i n : Nat} (h : i < n) : dataOrStop x i n = .data x i := if_pos h

theorem dataOrStop_ge {x : Xfer} {i n : Nat} (h : n ≤ i) : dataOrStop x i n = .stop x true :=
  if_neg (by omega)

@[simp] theorem xferLen_congr {s t : State} (h : t.len = s.len) (x : Xfer) : xferLen t x = xferLen s x := by
  cases x <;> simp [xferLen, h]

/-! ### Bytes on the bus -/

/-- Everything one step of sending a byte can do to the sequencer, the trace and the stall count. -/
theorem transmit_cases (x : Xfer) (b : Byte) (q : Seq) (s : State) :
    ((transmit x b q s).seq = q ∧ (transmit x b q s).trace = s.trace ++ [.tx b .ack] ∧
      (transmit x b q s).stallTicks = 0) ∨
    ((transmit x b q s).seq = .stop x false ∧ (transmit x b q s).trace = s.trace ++ [.tx b .nack] ∧
      (transmit x b q s).stallTicks = 0) ∨
    ((transmit x b q s).seq = .stop x false ∧ (transmit x b q s).trace = s.trace ++ [.fail .device] ∧
      (transmit x b q s).stallTicks = 0) ∨
    ((transmit x b q s).seq = .stop x false ∧ (transmit x b q s).trace = s.trace ++ [.fail .timeout] ∧
      (transmit x b q s).stallTicks = 0 ∧ timesOut s = true) ∨
    ((transmit x b q s).seq = s.seq ∧ (transmit x b q s).trace = s.trace ∧
      (transmit x b q s).stallTicks = s.stallTicks + 1 ∧ timesOut s = false) := by
  have hto : timesOut (drawTx s).2 = timesOut s := by simp [timesOut]
  unfold transmit
  cases h : (drawTx s).1
  · simp [answerTx]
  · simp [answerTx]
  · simp [answerTx]
  · simp only [answerTx, stallByte, hto]
    split
    · refine .inr (.inr (.inr (.inl ?_))); simp_all
    · refine .inr (.inr (.inr (.inr ?_))); simp_all

/-- Everything one step of receiving a byte can do. -/
theorem receiveByte_cases (x : Xfer) (i : Nat) (s : State) :
    (∃ d, (receiveByte x i s).seq = dataOrStop x (i + 1) (xferLen s x) ∧
      (receiveByte x i s).trace = s.trace ++ [.rx d (readAck i (xferLen s x))] ∧
      (receiveByte x i s).rx = s.rx.setIfInBounds i d ∧
      (receiveByte x i s).devstat = (if x.isStatusRead then d else s.devstat) ∧
      (receiveByte x i s).stallTicks = 0) ∨
    ((receiveByte x i s).seq = .stop x false ∧ (receiveByte x i s).trace = s.trace ++ [.fail .device] ∧
      (receiveByte x i s).rx = s.rx ∧ (receiveByte x i s).devstat = s.devstat ∧
      (receiveByte x i s).stallTicks = 0) ∨
    ((receiveByte x i s).seq = .stop x false ∧ (receiveByte x i s).trace = s.trace ++ [.fail .timeout] ∧
      (receiveByte x i s).rx = s.rx ∧ (receiveByte x i s).devstat = s.devstat ∧
      (receiveByte x i s).stallTicks = 0 ∧ timesOut s = true) ∨
    ((receiveByte x i s).seq = s.seq ∧ (receiveByte x i s).trace = s.trace ∧
      (receiveByte x i s).rx = s.rx ∧ (receiveByte x i s).devstat = s.devstat ∧
      (receiveByte x i s).stallTicks = s.stallTicks + 1 ∧ timesOut s = false) := by
  have hto : timesOut (drawRx s).2 = timesOut s := by simp [timesOut]
  have hlen : xferLen (drawRx s).2 x = xferLen s x := xferLen_congr (by simp) x
  unfold receiveByte
  cases h : (drawRx s).1 with
  | byte d => exact .inl ⟨d, by simp [answerRx, hlen]⟩
  | fail => simp [answerRx]
  | stall =>
    simp only [answerRx, stallByte, hto]
    split
    · refine .inr (.inr (.inl ?_)); simp_all
    · refine .inr (.inr (.inr ?_)); simp_all

/-! ### Closing a transaction -/

@[simp] theorem closeXfer_seq (x : Xfer) (ok : Bool) (q : Seq) (s : State) : (closeXfer x ok q s).seq = q := rfl
@[simp] theorem closeXfer_bus (x : Xfer) (ok : Bool) (q : Seq) (s : State) : (closeXfer x ok q s).bus = .idle := rfl
@[simp] theorem closeXfer_trace (x : Xfer) (ok : Bool) (q : Seq) (s : State) :
    (closeXfer x ok q s).trace = s.trace ++ [.stop] := by
  cases ok <;> simp [closeXfer]

/-- A transaction that succeeded, or a write, leaves RX and the environment alone. -/
theorem closeXfer_kept {x : Xfer} {ok : Bool} (h : ok = true ∨ x.dir = .write) (q : Seq) (s : State) :
    (closeXfer x ok q s).rx = s.rx ∧ (closeXfer x ok q s).env = s.env := by
  rcases h with rfl | h
  · simp [closeXfer]
  · cases ok <;> simp [closeXfer, afterFailure, h]

@[simp] theorem absorbFailure_trace (x : Xfer) (f : Byte → Seq) (s : State) :
    (absorbFailure x f s).trace = s.trace ++ [.stop] := by
  unfold absorbFailure; split <;> simp
@[simp] theorem absorbFailure_bus (x : Xfer) (f : Byte → Seq) (s : State) : (absorbFailure x f s).bus = .idle := by
  unfold absorbFailure; split <;> simp
theorem absorbFailure_cases (x : Xfer) (f : Byte → Seq) (s : State) :
    (s.cfg.statusFailPolicy = .propagate ∧ (absorbFailure x f s).seq = .final .transport ∧
      (absorbFailure x f s).devstat = s.devstat) ∨
    (s.cfg.statusFailPolicy = .asZero ∧ (absorbFailure x f s).seq = f 0 ∧ (absorbFailure x f s).devstat = 0) := by
  unfold absorbFailure; split
  · next h => exact .inl ⟨h, by simp, by simp⟩
  · next h => exact .inr ⟨h, by simp, rfl⟩

@[simp] theorem closeStatusWrite_trace (again ok : Bool) (f : Byte → Seq) (s : State) :
    (closeStatusWrite again ok f s).trace = s.trace ++ [.stop] := by
  cases ok <;> simp [closeStatusWrite]
@[simp] theorem closeStatusWrite_bus (again ok : Bool) (f : Byte → Seq) (s : State) :
    (closeStatusWrite again ok f s).bus = .idle := by
  cases ok <;> simp [closeStatusWrite]
@[simp] theorem closeStatusRead_trace (again ok : Bool) (f : Byte → Seq) (s : State) :
    (closeStatusRead again ok f s).trace = s.trace ++ [.stop] := by
  cases ok <;> simp [closeStatusRead]
@[simp] theorem closeStatusRead_bus (again ok : Bool) (f : Byte → Seq) (s : State) :
    (closeStatusRead again ok f s).bus = .idle := by
  cases ok <;> simp [closeStatusRead]

/-- Where the STOP of a STATUS write leads. -/
theorem closeStatusWrite_seq (again ok : Bool) (f : Byte → Seq) (s : State) :
    (closeStatusWrite again ok f s).seq = .start (.statusRead again) ∨
    (closeStatusWrite again ok f s).seq = .final .transport ∨ (closeStatusWrite again ok f s).seq = f 0 := by
  cases ok
  · rcases absorbFailure_cases (.statusWrite again) f s with h | h <;> simp [closeStatusWrite, h]
  · simp [closeStatusWrite]

/-- Where the STOP of a status read leads. -/
theorem closeStatusRead_seq (again ok : Bool) (f : Byte → Seq) (s : State) :
    (closeStatusRead again ok f s).seq = .final .transport ∨ ∃ b, (closeStatusRead again ok f s).seq = f b := by
  cases ok
  · rcases absorbFailure_cases (.statusRead again) f s with h | h
    · simp [closeStatusRead, h]
    · exact .inr ⟨0, by simp [closeStatusRead, h]⟩
  · exact .inr ⟨s.rx[0], by simp [closeStatusRead]⟩

/-! ### Settle waits -/

@[simp] theorem beginWait_trace (w : Settle) (q : Seq) (s : State) :
    (beginWait w q s).trace = s.trace ++ [.wait (settleMs w)] := by simp [beginWait]

theorem minTicks_pos (p : Params) (w : Settle) : 0 < minTicks p w := by
  cases w <;> simp [minTicks, settleMs, Params.ticksPerMs]

/-- A settle wait lasts at least its minimum, which is positive, so ticks follow. -/
theorem beginWait_spec (w : Settle) (q : Seq) (s : State) :
    minTicks s.cfg w ≤ (beginWait w q s).waitLeft ∧ (beginWait w q s).seq = .ticking w := by
  have h := minTicks_pos s.cfg w
  constructor
  · simp [beginWait]
  · have : ¬ (minTicks s.cfg w = 0 ∧ (drawWait s).1 = 0) := by omega
    simp [beginWait, this]

/-! ### Final steps -/

/-- The one step that ends a MEASURE over its frame. -/
theorem evaluateFrame_cases (c : Bool) (s : State) :
    (busyBit s.rx[0] = true ∧
      evaluateFrame c s = finish .deviceBusy (setFsm .calibrated { s with devstat := s.rx[0] })) ∨
    (busyBit s.rx[0] = false ∧ c = true ∧ (recordCrc s).crcCalc ≠ s.rx[6] ∧
      evaluateFrame c s = finish .integrity (setFsm .calibrated (recordCrc { s with devstat := s.rx[0] }))) ∨
    (busyBit s.rx[0] = false ∧ c = true ∧ (recordCrc s).crcCalc = s.rx[6] ∧
      evaluateFrame c s = finish .none (recordReading (parseBuffer s.rx c) (recordCrc { s with devstat := s.rx[0] }))) ∨
    (busyBit s.rx[0] = false ∧ c = false ∧
      evaluateFrame c s = finish .none (recordReading (parseBuffer s.rx c) { s with devstat := s.rx[0] })) := by
  unfold evaluateFrame
  cases c <;> cases hb : busyBit s.rx[0] <;> simp [parseBuffer, hb]
  by_cases hc : crc8 [s.rx[0], s.rx[1], s.rx[2], s.rx[3], s.rx[4], s.rx[5]] = s.rx[6] <;> simp [hc]

/-! ### The step -/

/-- A step taken is a completed fetch or an instruction that ran. -/
theorem step_next {s t : State} (h : step s = .next t) :
    fetch s = .complete t ∨ ∃ i u, fetch s = .run i u ∧ exec i u = .next t := by
  unfold step at h
  split at h
  · cases h; exact .inl (by assumption)
  · exact .inr ⟨_, _, by assumption, h⟩
  · cases h

/-- A command word on the running command takes its next step. -/
theorem asCommand_running {c : HostCmd} {f : State → Host.Outcome State Fault Refusal} {s : State}
    (hb : s.stat.busy = true) (hc : s.cur = some c) : asCommand c f s = f s := by
  simp [asCommand, hb, hc]

/-- A command word on an idle block is issued. -/
theorem asCommand_idle {c : HostCmd} {f : State → Host.Outcome State Fault Refusal} {s : State}
    (hb : s.stat.busy = false) : asCommand c f s = .next (issue c s) := by
  simp [asCommand, hb]

end Sys2Proof.Laws
end

