-- ==== Sys2Proof/Laws/PerInstr.lean ====
section
/-! SUPPORT. Statements made once per instruction: its encoding decodes to it. -/

namespace Sys2Proof.Laws.RoundTrip

/-- The encoding of an instruction decodes to it, with every operand (R71, R77, R79). -/
def Statement (i : Instr) : Prop := decode (encode i) = .ok i

theorem busWrite : Statement .busWrite := rfl

theorem busRead : Statement .busRead := rfl

theorem statusRead : Statement .statusRead := rfl

theorem initializeCmd : Statement .initializeCmd := rfl

theorem softReset : Statement .softReset := rfl

theorem measure (crcEn : Bool) : Statement (.measure crcEn) := by cases crcEn <;> rfl

theorem devInit : Statement .devInit := rfl

theorem devMeasure : Statement .devMeasure := rfl

theorem devSoftReset : Statement .devSoftReset := rfl

theorem devStatus : Statement .devStatus := rfl

/-- The address byte keeps all seven address bits and the direction. -/
theorem busAddressByte (addr : BusAddr) (dir : Dir) : Statement (.busAddressByte addr dir) := by
  cases dir <;> revert addr <;> unfold Statement <;> decide

end Sys2Proof.Laws.RoundTrip
end

