-- ==== Sys2Proof/Laws/Step.lean ====
section
/-! SUPPORT. Steps one after another: unrolling a run, the step of an undisturbed block, and the small
lemmas of the CRC and of the buffers. -/

namespace Sys2Proof.Laws

open Sys2Proof.Machine

/-! ### Runs -/

@[simp] theorem runSteps_zero (s : State) : runSteps 0 s = .next s := rfl

/-- A run goes on from the next state. -/
theorem runSteps_succ {n : Nat} {s t : State} (h : step s = .next t) : runSteps (n + 1) s = runSteps n t := by
  have h : Sys2Proof.core.step s = .next t := h
  simp only [runSteps, Host.Core.run]; rw [h]

/-- A run that answers has taken its first step. -/
theorem runSteps_cases {n : Nat} {s u : State} (h : runSteps (n + 1) s = .next u) :
    ∃ t, step s = .next t ∧ runSteps n t = .next u := by
  simp only [runSteps, Host.Core.run] at h
  split at h
  · exact ⟨_, by assumption, h⟩
  · cases h
  · cases h

/-- Two runs one after the other are one run. -/
theorem runSteps_trans {m n : Nat} {s t u : State} (h : runSteps m s = .next t) (g : runSteps n t = .next u) :
    runSteps (m + n) s = .next u := by
  induction m generalizing s with
  | zero => cases h; simpa using g
  | succ m ih =>
    obtain ⟨v, hv, h⟩ := runSteps_cases h
    rw [show m + 1 + n = m + n + 1 by omega, runSteps_succ hv]
    exact ih h

/-- One more step at the end of a run. -/
theorem runSteps_snoc {n : Nat} {s t u : State} (h : runSteps n s = .next t) (g : step t = .next u) :
    runSteps (n + 1) s = .next u :=
  runSteps_trans h ((runSteps_succ g).trans (runSteps_zero u))

/-- What every step keeps holds of every state reached. -/
theorem reaches_induction {P : State → Prop} (keep : ∀ s t, P s → step s = .next t → P t) {s t : State}
    (hs : P s) (h : Reaches s t) : P t := by
  obtain ⟨n, h⟩ := h
  induction n generalizing s with
  | zero => cases h; exact hs
  | succ n ih =>
    obtain ⟨v, hv, h⟩ := runSteps_cases h
    exact ih (keep s v hs hv) h

/-! ### The step of an undisturbed block -/

/-- With no host access to come, a busy block runs the row its sequencer stands at. -/
theorem step_undisturbed {s : State} {i : Instr} (hu : Undisturbed s) (hb : s.stat.busy = true)
    (hr : rowAt s = some i) : step s = exec i s := by
  have hu : s.env.inputs = [] := hu
  simp [step, fetch, hu, blockTurn, hb, hr]

/-- The row at a position where the latched command itself runs. -/
theorem rowAt_command {s : State} {c : HostCmd} (hc : s.cur = some c) (ha : ∀ x, s.seq ≠ .address x)
    (hd : ∀ x i, s.seq = .data x i → x = .hostWrite ∨ x.dir = .read) : rowAt s = some c.toInstr := by
  unfold rowAt
  split
  · next x h => exact absurd h (ha x)
  · next x i h => rcases hd _ _ h with h | h <;> cases h
  · next i h => rcases hd _ _ h with h | h <;> cases h
  · next i h => rcases hd _ _ h with h | h <;> cases h
  · next i h => rcases hd _ _ h with h | h <;> cases h
  · simp [hc]

/-- The row at an address position. -/
theorem rowAt_address {s : State} {x : Xfer} (h : s.seq = .address x) :
    rowAt s = some (.busAddressByte s.devAddr x.dir) := by
  simp [rowAt, h]

/-! ### Buffers -/

/-- Storing a received byte leaves every other byte of RX. -/
theorem rx_other (v : Vector Byte 7) (i : Nat) (d : Byte) (j : Fin 7) (h : i ≠ j.val) :
    (v.setIfInBounds i d)[j] = v[j] := by
  simp only [Fin.getElem_fin]
  rw [Vector.getElem_setIfInBounds_ne]; exact h

/-- A step that receives byte `i` leaves every other byte of RX. -/
theorem receiveByte_rx_other (x : Xfer) (i : Nat) (s : State) (j : Fin 7) (h : i ≠ j.val) :
    (receiveByte x i s).rx[j] = s.rx[j] := by
  rcases receiveByte_cases x i s with ⟨d, _, _, g, _⟩ | ⟨_, _, g, _⟩ | ⟨_, _, g, _⟩ | ⟨_, _, g, _⟩ <;> rw [g]
  exact rx_other _ _ _ _ h

/-- The STOP of a failed read leaves the bytes the read could not have written. -/
theorem closeXfer_rx_other (x : Xfer) (ok : Bool) (q : Seq) (s : State) (j : Fin 7)
    (h : x.dir = .write ∨ xferLen s x ≤ j.val) : (closeXfer x ok q s).rx[j] = s.rx[j] := by
  cases ok
  · cases hx : x.dir
    · simp [closeXfer, afterFailure, hx]
    · have h : xferLen s x ≤ j.val := by simpa [hx] using h
      simp [closeXfer, afterFailure, hx, scrambleRx]
      intro g; omega
  · simp [closeXfer]

/-! ### CRC-8 -/

/-- The bytes of a CRC are folded in from the left. -/
theorem crc8_snoc (s : List Byte) (b : Byte) : crc8 (s ++ [b]) = crcByte (crc8 s) b := by simp [crc8]

/-- Zero has no bit to divide out. -/
theorem crcShifts_zero (n : Nat) : crcShifts n 0 = 0 := by
  induction n with
  | zero => rfl
  | succ n ih => simpa [crcShifts, crcShift] using ih

end Sys2Proof.Laws
end

