-- ==== Sys2Proof/Machine/HostProgram.lean ====
section
/-! DEFINITION. Host programs in the spec's notation, as the accesses they stand for (R84). -/

namespace Sys2Proof.Machine

/-- The accesses a line of a host program expands to (R84); absent bytes are 0, and POLL's readings
are `gap` block steps apart. -/
def expandStmt (gap : Nat) : HostStmt → List HostAction
  | .wr r v => [.write 4 (regOffset r) v]
  | .rd r => [.read 4 (regOffset r)]
  | .poll => [.poll gap]
  | .command c => [.write 4 (regOffset .cmd) c.word]
  | .setAddr a => [.write 4 (regOffset .addr) a]
  | .send bytes =>
    [.write 4 (regOffset .len) (BitVec.ofNat 32 bytes.length),
     .write 4 (regOffset .txd0)
       (packWord (bytes.getD 0 0) (bytes.getD 1 0) (bytes.getD 2 0) (bytes.getD 3 0)),
     .write 4 (regOffset .txd1) (packWord (bytes.getD 4 0) (bytes.getD 5 0) (bytes.getD 6 0) 0),
     .write 4 (regOffset .cmd) HostCmd.busWrite.word,
     .poll gap]
  | .recv n =>
    [.write 4 (regOffset .len) (BitVec.ofNat 32 n),
     .write 4 (regOffset .cmd) HostCmd.busRead.word,
     .poll gap]

/-- A host program as inputs of the machine, `gap` block steps before each access (R64). -/
def programInputs (gap : Nat) (p : List HostStmt) : List (Nat × HostAction) :=
  (p.flatMap (expandStmt gap)).map fun a => (gap, a)

end Sys2Proof.Machine
end

