-- ==== Sys2Proof/Tests/Slice0.lean ====
section
/-! SUPPORT. Smoke tests of the well-formedness checks, decode tests from the spec's encodings, a few
one-step tests whose expected values are the spec's, and a witness for the hypotheses of every
statement. Parameters are concrete here (PROPAGATE or AS_ZERO, one tick per millisecond). -/

namespace Sys2Proof.Tests

open Sys2Proof.Machine

/-! ### Helpers -/

/-- Parameters for tests. -/
def params (p : StatusFailPolicy) (te : Bool) (timeout : Option Nat) : Params where
  statusFailPolicy := p
  teToUninit := te
  ticksPerMsLessOne := 0
  busTimeout := timeout
  fScl := 0
  tPowerup := 0

/-- An idle block in FSM state `f`, with `n` in LEN. -/
def idleIn (f : Fsm) (n : BitVec 3) : State :=
  { State.reset with
    cfg := params .propagate false none
    len := n
    stat := { State.reset.stat with fsm := f, valid := decide (f = .ready) }
    preFsm := f }

/-- A block running `c` at position `q`, the trace `l` behind it. -/
def running (c : HostCmd) (f : Fsm) (q : Seq) (l : List BusEvent) : State :=
  { idleIn f 1 with
    stat := (idleIn f 1).stat.issued
    cur := some c
    seq := q
    bus := busAt q
    trace := l
    preFsm := if f = .measuring then .calibrated else f }

/-- With device answers listed. -/
def answers (tx : List TxAnswer) (rx : List RxAnswer) (w : List Nat) (s : State) : State :=
  { s with env := { s.env with txAnswers := tx, rxAnswers := rx, waitExtras := w } }

/-- With the host's next moves listed. -/
def inputs (l : List (Nat × HostAction)) (s : State) : State := { s with env := { s.env with inputs := l } }

/-- Under AS_ZERO. -/
def asZero (s : State) : State := { s with cfg := params .asZero false none }

/-- With TE_TO_UNINIT. -/
def teUninit (s : State) : State := { s with cfg := params .propagate true none }

/-- With a bus timeout. -/
def timeout (k : Nat) (s : State) : State := { s with cfg := params .propagate false (some k) }

/-- With these bytes in RX. -/
def holding (f : Vector Byte 7) (s : State) : State := { s with rx := f }

/-- Whether an outcome is a next state of which `p` holds. -/
def nextHas (o : Host.Outcome State Fault Refusal) (p : State → Bool) : Bool :=
  match o with
  | .next t => p t
  | .fault _ => false
  | .refused _ => false

/-! ### Well-formedness: each check refuses an ill-formed term -/

theorem test_wf_read_two_bytes : (HostAction.read 2 0x04).wellFormed = false := by decide
theorem test_wf_read_misaligned : (HostAction.read 4 0x02).wellFormed = false := by decide
theorem test_wf_read_unmapped : (HostAction.read 4 0x30).wellFormed = false := by decide
theorem test_wf_write_unmapped : (HostAction.write 4 0xFC 0).wellFormed = false := by decide
theorem test_wf_write_one_byte : (HostAction.write 1 0x08 0).wellFormed = false := by decide
theorem test_wf_write_misaligned : (HostAction.write 4 0x0A 0).wellFormed = false := by decide
theorem test_wf_last_register : (HostAction.read 4 0x2C).wellFormed = true := by decide
theorem test_wf_read_only : (HostStmt.wr .stat 0).wellFormed = false := by decide
theorem test_wf_send_nothing : (HostStmt.send []).wellFormed = false := by decide
theorem test_wf_send_eight : (HostStmt.send [1, 2, 3, 4, 5, 6, 7, 8]).wellFormed = false := by decide
theorem test_wf_recv_none : (HostStmt.recv 0).wellFormed = false := by decide
theorem test_wf_recv_eight : (HostStmt.recv 8).wellFormed = false := by decide

/-! ### Decoding: words written out from R71, R77 and R79 -/

theorem test_decode_bus_write : decode (.word 0b00000000000000000000000000000001) = .ok .busWrite := by rfl
theorem test_decode_bus_read : decode (.word 0b00000000000000000000000000000010) = .ok .busRead := by rfl
theorem test_decode_status_read : decode (.word 0b00000000000000000000000000000011) = .ok .statusRead := by rfl
theorem test_decode_initialize : decode (.word 0b00000000000000000000000000000100) = .ok .initializeCmd := by rfl
theorem test_decode_soft_reset : decode (.word 0b00000000000000000000000000000101) = .ok .softReset := by rfl
theorem test_decode_measure : decode (.word 0b00000000000000000000000000000110) = .ok (.measure false) := by rfl
theorem test_decode_measure_crc : decode (.word 0b00000000000000000000000000001110) = .ok (.measure true) := by rfl
theorem test_decode_dev_init : decode (.data [0b10111110, 0b00001000, 0b00000000]) = .ok .devInit := by rfl
theorem test_decode_dev_measure : decode (.data [0b10101100, 0b00110011, 0b00000000]) = .ok .devMeasure := by rfl
theorem test_decode_dev_soft_reset : decode (.data [0b10111010]) = .ok .devSoftReset := by rfl
theorem test_decode_dev_status : decode (.data [0b01110001]) = .ok .devStatus := by rfl
/-- At 0x38 the write address byte is 0x70 and the read address byte 0x71 (R77). -/
theorem test_decode_address :
    decode (.address 0b01110000) = .ok (.busAddressByte 0x38 .write) ∧
    decode (.address 0b01110001) = .ok (.busAddressByte 0x38 .read) := by decide
theorem test_decode_rejects :
    decode (.word 0x00000000) = .error .reservedOpcode ∧ decode (.word 0x0000000F) = .error .reservedOpcode ∧
    decode (.word 0x00000009) = .error .crcEnWithoutMeasure ∧ decode (.word 0x80000006) = .error .reservedBits ∧
    decode (.data [0xBE, 0x08]) = .error .notADeviceCommand := by
  refine ⟨rfl, rfl, rfl, rfl, rfl⟩

/-- The rows of spec/opcode_table.json, numbered as it numbers them. -/
theorem test_table_rows :
    decodeTableWord 32 1 = some .busWrite ∧ decodeTableWord 32 2 = some .busRead ∧
    decodeTableWord 32 3 = some .statusRead ∧ decodeTableWord 32 4 = some .initializeCmd ∧
    decodeTableWord 32 5 = some .softReset ∧ decodeTableWord 32 6 = some (.measure false) ∧
    decodeTableWord 32 14 = some (.measure true) ∧ decodeTableWord 24 12453888 = some .devInit ∧
    decodeTableWord 24 11285248 = some .devMeasure ∧ decodeTableWord 8 186 = some .devSoftReset ∧
    decodeTableWord 8 113 = some .devStatus ∧ decodeTableWord 8 0x70 = some (.busAddressByte 0x38 .write) := by
  decide

/-- Each row, placed in the state after reset, runs. -/
theorem test_placed_rows_run :
    ∀ p ∈ [(32, 1), (32, 2), (32, 3), (32, 4), (32, 5), (32, 6), (24, 12453888), (24, 11285248), (8, 186),
        (8, 113), (8, 0x70)],
      nextHas (step (State.reset.withFetchWord p.1 p.2)) (fun _ => true) = true := by
  decide

/-! ### One step each, with the spec's values -/

/-- R103, R160: with LEN = 1 BUS_WRITE is issued; R102: with LEN = 0 it is refused. -/
theorem test_bus_write_issue :
    nextHas (exec .busWrite (idleIn .ready 1)) (fun t => t.stat.busy && t.cur == some .busWrite) = true ∧
    nextHas (exec .busWrite (idleIn .ready 0)) (fun t => !t.stat.busy && t.refused == some .zeroLength) = true := by
  decide

/-- R103's example: TX[0] = 0xBA goes out as TX(0xBA)A, then STOP. -/
theorem test_bus_write_byte :
    nextHas (exec .busWrite (answers [.ack] [] []
        { running .busWrite .ready (.data .hostWrite 0) [] with tx := #v[0xBA, 1, 2, 3, 4, 5, 6] }))
      (fun t => t.trace == [.tx 0xBA .ack] && t.seq == .stop .hostWrite true) = true := by decide

/-- R109's example: the device answers 0x1C, the block does not acknowledge the only byte. -/
theorem test_bus_read_byte :
    nextHas (exec .busRead (answers [] [.byte 0x1C] [] (running .busRead .ready (.data .hostRead 0) [])))
      (fun t => t.trace == [.rx 0x1C .nack] && t.rx[0] == 0x1C && t.devstat == 0) = true := by decide

/-- R168, R167: under AS_ZERO a NACK of the STATUS write ends STATUS_READ with NONE and DEVSTAT 0x00. -/
theorem test_status_read_as_zero :
    nextHas (exec .statusRead (asZero
        { running .statusRead .ready (.stop (.statusWrite false) false) [] with devstat := 0x18 }))
      (fun t => t.devstat == 0 && t.seq == .final .none && t.trace == [.stop]) = true := by decide

/-- R169's example: the ready bit of 0x18 is set, so INIT is not sent. -/
theorem test_init_ready :
    nextHas (exec .initializeCmd (holding #v[0x18, 0, 0, 0, 0, 0, 0]
        (running .initializeCmd .uninitialized (.stop (.statusRead false) true) [])))
      (fun t => t.seq == .final .none) = true := by decide

/-- R172: INIT_NOT_READY leaves the FSM UNINITIALIZED also from READY; VALID is kept (R173). -/
theorem test_init_not_ready :
    nextHas (exec .initializeCmd (running .initializeCmd .ready (.final .initNotReady) []))
      (fun t => t.stat == { busy := false, done := true, ok := false, err := .initNotReady,
                            fsm := .uninitialized, valid := true }) = true := by decide

/-- R174, R175: after a failed write SOFT_RESET does not wait, and ends UNINITIALIZED with TRANSPORT. -/
theorem test_soft_reset_failed :
    nextHas (exec .softReset (running .softReset .ready (.stop .resetWrite false) []))
      (fun t => t.seq == .final .transport) = true ∧
    nextHas (exec .softReset (running .softReset .ready (.final .transport) []))
      (fun t => t.stat.fsm == .uninitialized && t.stat.err == .transport && t.stat.valid) = true := by decide

/-- R177's example: the frame 1C 80 00 08 00 00 gives RAW_H = RAW_T = 0x80000 and READY. -/
theorem test_measure_success :
    nextHas (exec (.measure false) (holding #v[0x1C, 0x80, 0x00, 0x08, 0x00, 0x00, 0x00]
        (running (.measure false) .measuring .evaluate [])))
      (fun t => t.rawH == 0x80000 && t.rawT == 0x80000 && t.stat.word == 0x00000706 && t.devstat == 0x1C) = true := by
  decide

/-- R145's example with byte 6 = 0xBD: INTEGRITY, CALIBRATED, CALC = 0xBC, the reading kept. -/
theorem test_measure_integrity :
    nextHas (exec (.measure true) (holding #v[0x00, 0x1B, 0x33, 0x5A, 0x9A, 0x3B, 0xBD]
        (running (.measure true) .measuring .evaluate [])))
      (fun t => t.stat.err == .integrity && t.stat.fsm == .calibrated && t.crcCalc == 0xBC && t.crcRecv == 0xBD &&
        t.rawH == 0 && !t.stat.valid) = true := by decide +kernel

/-- R79: the second byte of INIT is 0x08. -/
theorem test_dev_init_byte :
    nextHas (exec .devInit (answers [.ack] [] [] (running .initializeCmd .uninitialized (.data .initWrite 1) [])))
      (fun t => t.trace == [.tx 0x08 .ack] && t.seq == .data .initWrite 2) = true := by decide

/-- R79: the second byte of MEASURE is 0x33, and a NACK leads to STOP (R104). -/
theorem test_dev_measure_byte :
    nextHas (exec .devMeasure (answers [.nack] [] [] (running (.measure true) .measuring (.data .trigger 1) [])))
      (fun t => t.trace == [.tx 0x33 .nack] && t.seq == .stop .trigger false) = true := by decide

/-- R79, R107, R232: 0xBA; a stall of BUS_TIMEOUT ticks ends as FAIL, shown as a timeout. -/
theorem test_dev_soft_reset_byte :
    nextHas (exec .devSoftReset (timeout 1 (answers [.stall] [] [] (running .softReset .ready (.data .resetWrite 0) []))))
      (fun t => t.trace == [.fail .timeout] && t.seq == .stop .resetWrite false) = true ∧
    nextHas (exec .devSoftReset (answers [.ack] [] [] (running .softReset .ready (.data .resetWrite 0) [])))
      (fun t => t.trace == [.tx 0xBA .ack] && t.seq == .stop .resetWrite true) = true := by decide

/-- R79: 0x71. -/
theorem test_dev_status_byte :
    nextHas (exec .devStatus (answers [.ack] [] [] (running .statusRead .ready (.data (.statusWrite false) 0) [])))
      (fun t => t.trace == [.tx 0x71 .ack] && t.seq == .stop (.statusWrite false) true) = true := by decide

/-- R77: at 0x38 a read opens with 0x71. -/
theorem test_address_byte :
    nextHas (exec (.busAddressByte 0x38 .read) (answers [.ack] [] [] (running .busRead .ready (.address .hostRead) [])))
      (fun t => t.trace == [.tx 0x71 .ack] && t.seq == .data .hostRead 0) = true := by decide

/-- R121's example. -/
theorem test_parse_example :
    parse [0x00, 0x1B, 0x33, 0x5A, 0x9A, 0x3B] = some { status := 0x00, h := 0x1B335, t := 0xA9A3B, crc := none } := by
  decide

/-- R145's example. -/
theorem test_crc_example :
    crcCheck [0x00, 0x1B, 0x33, 0x5A, 0x9A, 0x3B, 0xBC] = true ∧
    crcCheck [0x00, 0x1B, 0x33, 0x5A, 0x9A, 0x3B, 0xBD] = false := by decide +kernel

/-- R84: SEND expands to LEN, TXD0, TXD1, BUS_WRITE and POLL. -/
theorem test_send_expansion :
    expandStmt 5 (.send [0xAC, 0x33, 0x00]) =
      [.write 4 0x0C 3, .write 4 0x10 0x000033AC, .write 4 0x14 0, .write 4 0x00 1, .poll 5] := by decide

/-- R84: a POLL that reads BUSY = 1 stays next; one that reads BUSY = 0 is done. -/
theorem test_poll :
    nextHas (step (inputs [(0, .poll 3)] (running .statusRead .ready (.final .none) [])))
      (fun t => t.env.inputs == [(3, .poll 3)]) = true ∧
    nextHas (step (inputs [(0, .poll 3)] (idleIn .ready 1))) (fun t => t.env.inputs == []) = true := by decide

/-! ### Witnesses: states and operands that meet each statement's hypotheses -/

theorem wit_CommandWordFields :
    (0x10 : Word).toNat / 16 ≠ 0 ∧
    ((0x0 : Word).toNat / 16 = 0 ∧ (0x0 : Word).toNat % 8 = 0) ∧ ((0xF : Word).toNat / 16 = 0 ∧ (0xF : Word).toNat % 8 = 7) ∧
    ((0x9 : Word).toNat / 16 = 0 ∧ (0x9 : Word).toNat % 8 = 1 ∧ (0x9 : Word).toNat / 8 % 2 = 1) ∧
    (∀ k ∈ [1, 2, 3, 4, 5, 6], (BitVec.ofNat 32 k).toNat / 16 = 0 ∧ (BitVec.ofNat 32 k).toNat / 8 % 2 = 0 ∧
      (BitVec.ofNat 32 k).toNat % 8 = k) ∧
    ((0xE : Word).toNat / 16 = 0 ∧ (0xE : Word).toNat / 8 % 2 = 1 ∧ (0xE : Word).toNat % 8 = 6) := by decide

/-- One illegal word of each kind, about to be written to an idle block. -/
theorem wit_IllegalWordChangesNothing :
    ((0x16 : Word).toNat / 16 ≠ 0 ∧ (0x0 : Word).toNat % 8 = 0 ∧ (0x7 : Word).toNat % 8 = 7 ∧
      (0x9 : Word).toNat / 8 % 2 = 1 ∧ (0x9 : Word).toNat % 8 ≠ 6) ∧
    (inputs [(0, .write 4 0x00 0x9)] (idleIn .ready 1)).env.inputs = (0, .write 4 0x00 0x9) :: [] ∧
    (inputs [(0, .write 4 0x00 0x9)] (idleIn .ready 1)).stat.busy = false := by decide

theorem wit_StepRunsTheWrittenCommand :
    (inputs [(0, .write 4 0x00 0xE)] (idleIn .ready 1)).env.inputs = (0, .write 4 0x00 0xE) :: [] ∧
    (inputs [(0, .write 4 0x00 0xE)] (idleIn .ready 1)).stat.busy = false ∧
    decodeWord 0xE = .ok (.measure true) := ⟨rfl, rfl, rfl⟩

/-- A position for every clause, with and without a host access to come. -/
theorem wit_StepRunsTheSequencerRow :
    (running .busRead .ready (.address .hostRead) []).seq = .address .hostRead ∧
    (running .statusRead .ready (.data (.statusWrite false) 0) []).seq = .data (.statusWrite false) 0 ∧
    (running .initializeCmd .ready (.data .initWrite 2) []).seq = .data .initWrite 2 ∧
    (running .softReset .ready (.data .resetWrite 0) []).seq = .data .resetWrite 0 ∧
    (running (.measure true) .measuring (.data .trigger 0) []).seq = .data .trigger 0 ∧
    (running .busRead .ready (.data .hostRead 0) []).cur = some .busRead ∧ Xfer.hostRead.dir = .read ∧
    (running .busRead .ready (.address .hostRead) []).env.inputs = [] ∧
    (inputs [(1, .blockReset)] (running .busRead .ready (.address .hostRead) [])).env.inputs = (0 + 1, .blockReset) :: [] ∧
    (running .busRead .ready (.address .hostRead) []).stat.busy = true := by decide

theorem wit_IdleBlockWaits :
    (idleIn .ready 1).stat.busy = false ∧ (idleIn .ready 1).env.inputs = [] ∧
    (inputs [(3, .read 4 0x04)] (idleIn .ready 1)).env.inputs = (2 + 1, .read 4 0x04) :: [] := by decide

theorem wit_PlacedWordRunsNext : decodeTableWord 24 0xBE0800 = some .devInit := by decide

theorem wit_BlockResetFromAnyState :
    (inputs [(0, .blockReset)] (running .busRead .ready (.address .hostRead) [.start])).env.inputs =
      (0, .blockReset) :: [] := by decide

theorem wit_HostWriteStoresFields :
    ∀ r ∈ [RegName.addr, .len, .txd0, .txd1],
      (inputs [(0, .write 4 (regOffset r) 0xFFFFFFFF)] (idleIn .ready 1)).env.inputs =
        (0, .write 4 (regOffset r) 0xFFFFFFFF) :: [] ∧
      (inputs [(0, .write 4 (regOffset r) 0xFFFFFFFF)] (idleIn .ready 1)).stat.busy = false := by decide

theorem wit_HostReadReturnsAndChangesNothing :
    ∀ r ∈ [RegName.cmd, .stat, .rxd0, .rxd1, .rawT],
      (inputs [(0, .read 4 (regOffset r))] (running .busRead .ready (.address .hostRead) [])).env.inputs =
        (0, .read 4 (regOffset r)) :: [] := by decide

theorem wit_BusyBlockRefusesWrites :
    ∀ r ∈ [RegName.cmd, .addr, .len, .txd0, .txd1],
      (inputs [(0, .write 4 (regOffset r) 1)] (running .busRead .ready (.address .hostRead) [])).env.inputs =
        (0, .write 4 (regOffset r) 1) :: [] ∧
      (inputs [(0, .write 4 (regOffset r) 1)] (running .busRead .ready (.address .hostRead) [])).stat.busy = true := by
  decide

/-- Width, alignment, the first unmapped offset, and a read-only register. -/
theorem wit_IllegalAccessRefused :
    (2 : Nat) ≠ 4 ∧ (0x06 : Offset).toNat % 4 ≠ 0 ∧ 0x30 ≤ (0x30 : Offset).toNat ∧
    ∀ a ∈ [HostAction.read 2 0x04, .write 4 0x06 0, .read 4 0x30, .write 4 (regOffset .devstat) 0],
      (inputs [(0, a)] (idleIn .ready 1)).env.inputs = (0, a) :: [] := by decide

theorem wit_IssueStartsTheCommand :
    (idleIn .ready 0).stat.busy = false ∧ (idleIn .ready 0).len = 0 ∧
    ¬ ((HostCmd.measure true = .busWrite ∨ HostCmd.measure true = .busRead) ∧ (idleIn .ready 0).len = 0) := by decide

theorem wit_AddressByteSent :
    (running .busRead .ready (.address .hostRead) [.start]).seq = .address .hostRead ∧
    0 < xferLen (running .busRead .ready (.address .hostRead) [.start]) .hostRead := by decide

theorem wit_DeviceCommandBytesSent :
    (running .initializeCmd .ready (.data .initWrite 2) []).seq = .data .initWrite 2 ∧
    (running (.measure false) .measuring (.data .trigger 2) []).seq = .data .trigger 2 ∧
    (running .softReset .ready (.data .resetWrite 0) []).seq = .data .resetWrite 0 ∧
    (running .initializeCmd .ready (.data (.statusWrite true) 0) []).seq = .data (.statusWrite true) 0 := by decide

/-- A stalled write byte without a timeout, and a stalled read byte with BUS_TIMEOUT = 2. -/
theorem wit_StallHoldsUntilTimeout :
    let s := answers [.stall, .stall, .ack] [] [] (running .softReset .ready (.data .resetWrite 0) [])
    let r := timeout 2 (answers [] [.stall, .stall] [] (running .busRead .ready (.data .hostRead 0) []))
    (Undisturbed s ∧ s.stat.busy = true ∧ s.cur = some .softReset ∧ ownsXfer .softReset .resetWrite = true ∧
      s.stallTicks = 0 ∧ s.seq = .data .resetWrite 0 ∧ Xfer.resetWrite.dir = .write ∧
      s.env.txAnswers = List.replicate 2 .stall ++ [.ack] ∧ s.cfg.busTimeout = none) ∧
    (Undisturbed r ∧ r.stat.busy = true ∧ r.cur = some .busRead ∧ ownsXfer .busRead .hostRead = true ∧
      r.stallTicks = 0 ∧ r.seq = .data .hostRead 0 ∧ Xfer.hostRead.dir = .read ∧
      r.env.rxAnswers = List.replicate 2 .stall ++ [] ∧ r.cfg.busTimeout = some 2) := by
  unfold Undisturbed; decide

theorem wit_BusWriteSendsTheBuffer :
    let s := answers [.ack, .ack, .ack, .ack, .ack, .ack, .ack, .ack] [] [] (idleIn .ready 7)
    AtRest s ∧ Undisturbed s ∧ s.len ≠ 0 ∧ s.env.txAnswers = List.replicate (s.len.toNat + 1) .ack ++ [] := by
  unfold AtRest Undisturbed; decide

/-- The address byte not acknowledged, and FAIL at the last of seven data bytes. -/
theorem wit_BusWriteFailsAtAnyByte :
    let s := answers [.nack] [] [] (idleIn .ready 7)
    let r := answers [.ack, .ack, .ack, .ack, .ack, .ack, .ack, .fail] [] [] (idleIn .ready 7)
    (AtRest s ∧ Undisturbed s ∧ s.len ≠ 0 ∧ s.env.txAnswers = List.replicate 0 .ack ++ badAnswer true :: []) ∧
    (AtRest r ∧ Undisturbed r ∧ 7 ≤ r.len.toNat ∧ r.env.txAnswers = List.replicate 7 .ack ++ badAnswer false :: []) := by
  unfold AtRest Undisturbed; decide

theorem wit_BusReadFillsTheBuffer :
    let s := answers [.ack] [.byte 0x1C] [] (idleIn .ready 1)
    AtRest s ∧ Undisturbed s ∧ s.len ≠ 0 ∧ [(0x1C : Byte)].length = s.len.toNat ∧
    s.env.txAnswers = .ack :: [] ∧ s.env.rxAnswers = [(0x1C : Byte)].map .byte ++ [] := by
  unfold AtRest Undisturbed; decide

theorem wit_BusReadFailsAtAnyByte :
    let s := answers [.nack] [] [] (idleIn .ready 1)
    let r := answers [.ack] [.byte 1, .fail] [] (idleIn .ready 2)
    (AtRest s ∧ Undisturbed s ∧ s.len ≠ 0 ∧ s.env.txAnswers = badAnswer true :: []) ∧
    (AtRest r ∧ Undisturbed r ∧ [(1 : Byte)].length < r.len.toNat ∧ r.env.txAnswers = .ack :: [] ∧
      r.env.rxAnswers = [(1 : Byte)].map .byte ++ .fail :: []) := by
  unfold AtRest Undisturbed; decide

theorem wit_StatusReadStoresTheStatusByte :
    let s := answers [.ack, .ack, .ack] [.byte 0x1C] [] (idleIn .ready 0)
    AtRest s ∧ Undisturbed s ∧ s.env.txAnswers = .ack :: .ack :: .ack :: [] ∧ s.env.rxAnswers = .byte 0x1C :: [] := by
  unfold AtRest Undisturbed; decide

/-- Both commands, both transactions, both policies, first and second status read. -/
theorem wit_FailedStatusReadFollowsThePolicy :
    let s := running .statusRead .ready (.stop (.statusWrite false) false) []
    let r := asZero (running .initializeCmd .ready (.stop (.statusRead true) false) [])
    let q := asZero (running .initializeCmd .ready (.stop (.statusWrite false) false) [])
    (s.stat.busy = true ∧ s.seq = .stop (.statusWrite false) false ∧ s.cur = some .statusRead ∧
      s.cfg.statusFailPolicy = .propagate ∧ (asZero s).cfg.statusFailPolicy = .asZero) ∧
    (r.stat.busy = true ∧ r.seq = .stop (.statusRead true) false ∧ r.cur = some .initializeCmd ∧
      r.cfg.statusFailPolicy = .asZero ∧ 1 ≤ (1 : Fin 7).val) ∧
    (q.stat.busy = true ∧ q.seq = .stop (.statusWrite false) false ∧ q.cur = some .initializeCmd ∧
      q.cfg.statusFailPolicy = .asZero) := by decide

theorem wit_InitializeWhenAlreadyReady :
    let s := answers [.ack, .ack, .ack] [.byte 0x18] [] (idleIn .uninitialized 0)
    AtRest s ∧ Undisturbed s ∧ s.env.txAnswers = .ack :: .ack :: .ack :: [] ∧ s.env.rxAnswers = .byte 0x18 :: [] ∧
    (0x18 : Byte).getLsbD 3 = true := by
  unfold AtRest Undisturbed; decide

theorem wit_InitializeSendsInitAndReadsAgain :
    let s := answers [.ack, .ack, .ack, .ack, .ack, .ack, .ack, .ack, .ack, .ack] [.byte 0x00, .byte 0x08] [0]
      (idleIn .ready 0)
    AtRest s ∧ Undisturbed s ∧ s.waitLeft = 0 ∧ s.env.txAnswers = List.replicate 10 .ack ++ [] ∧
    s.env.rxAnswers = .byte 0x00 :: .byte 0x08 :: [] ∧ s.env.waitExtras = 0 :: [] ∧
    (0x00 : Byte).getLsbD 3 = false ∧ (0x08 : Byte).getLsbD 3 = true := by
  unfold AtRest Undisturbed; decide

/-- The three failed transactions, the byte of RX beyond a 6-byte frame, and the three final steps. -/
theorem wit_TransportErrorExit :
    let init := fun q => running .initializeCmd .ready q []
    let meas := fun c q => running (.measure c) .measuring q []
    let stat := running .statusRead .ready (.final .transport) []
    ((init (.stop .initWrite false)).stat.busy = true ∧ (init (.stop .initWrite false)).cur = some .initializeCmd ∧
      (init (.stop .initWrite false)).seq = .stop .initWrite false) ∧
    ((meas true (.stop .trigger false)).stat.busy = true ∧ (meas true (.stop .trigger false)).cur = some (.measure true) ∧
      (meas true (.stop .trigger false)).seq = .stop .trigger false) ∧
    ((meas false (.stop (.frameRead false) false)).stat.busy = true ∧
      (meas false (.stop (.frameRead false) false)).cur = some (.measure false) ∧
      (meas false (.stop (.frameRead false) false)).seq = .stop (.frameRead false) false ∧ 6 ≤ (6 : Fin 7).val) ∧
    ((init (.final .transport)).stat.busy = true ∧ (init (.final .transport)).cur = some .initializeCmd ∧
      (init (.final .transport)).seq = .final .transport) ∧
    ((teUninit (meas false (.final .transport))).stat.busy = true ∧
      (teUninit (meas false (.final .transport))).cur = some (.measure false) ∧
      (teUninit (meas false (.final .transport))).seq = .final .transport) ∧
    (stat.stat.busy = true ∧ stat.cur = some .statusRead ∧ stat.seq = .final .transport) := by decide

theorem wit_SoftResetSendsAndWaits :
    let s := answers [.ack, .ack] [] [2] (idleIn .uninitialized 0)
    AtRest s ∧ Undisturbed s ∧ s.waitLeft = 0 ∧ s.env.txAnswers = .ack :: .ack :: [] ∧ s.env.waitExtras = 2 :: [] := by
  unfold AtRest Undisturbed; decide

theorem wit_SoftResetFailureSkipsTheWait :
    let s := answers [.fail] [] [] (idleIn .ready 0)
    let r := answers [.ack, .nack] [] [] (idleIn .ready 0)
    (AtRest s ∧ Undisturbed s ∧ s.env.txAnswers = List.replicate 0 .ack ++ badAnswer false :: []) ∧
    (AtRest r ∧ Undisturbed r ∧ r.env.txAnswers = List.replicate 1 .ack ++ badAnswer true :: []) := by
  unfold AtRest Undisturbed; decide

theorem wit_MeasureNeedsCalibration :
    AtRest (idleIn .uninitialized 0) ∧ Undisturbed (idleIn .uninitialized 0) ∧
    (idleIn .uninitialized 0).stat.fsm = .uninitialized := by
  unfold AtRest Undisturbed; decide

/-- A busy frame, and a frame whose seventh byte is not its CRC. -/
theorem wit_FrameFailuresInOrder :
    let s := holding #v[0x80, 0, 0, 0, 0, 0, 0] (running (.measure true) .measuring .evaluate [])
    let r := holding #v[0x00, 0x1B, 0x33, 0x5A, 0x9A, 0x3B, 0xBD] (running (.measure true) .measuring .evaluate [])
    (s.stat.busy = true ∧ s.cur = some (.measure true) ∧ s.seq = .evaluate ∧ s.rx[0].getLsbD 7 = true) ∧
    (r.stat.busy = true ∧ r.cur = some (.measure true) ∧ r.seq = .evaluate ∧ r.rx[0].getLsbD 7 = false ∧
      crc8 [r.rx[0], r.rx[1], r.rx[2], r.rx[3], r.rx[4], r.rx[5]] ≠ r.rx[6]) := by decide +kernel

theorem wit_FrameSuccessWritesTheReading :
    let s := holding #v[0x00, 0x1B, 0x33, 0x5A, 0x9A, 0x3B, 0xBC] (running (.measure true) .measuring .evaluate [])
    s.stat.busy = true ∧ s.cur = some (.measure true) ∧ s.seq = .evaluate ∧ s.rx[0].getLsbD 7 = false ∧
    crc8 [s.rx[0], s.rx[1], s.rx[2], s.rx[3], s.rx[4], s.rx[5]] = s.rx[6] := by decide +kernel

/-- A frame for each outcome. -/
theorem wit_MeasureRunsToItsOutcome :
    let f : Vector Byte 7 := #v[0x00, 0x1B, 0x33, 0x5A, 0x9A, 0x3B, 0xBC]
    let s := answers [.ack, .ack, .ack, .ack, .ack] ((f.toList.take 7).map .byte) [0] (idleIn .calibrated 0)
    (AtRest s ∧ Undisturbed s ∧ s.waitLeft = 0 ∧ s.stat.fsm = .calibrated ∧
      s.env.txAnswers = List.replicate 5 .ack ++ [] ∧ s.env.waitExtras = 0 :: [] ∧
      s.env.rxAnswers = (f.toList.take (if true then 7 else 6)).map .byte ++ []) ∧
    (f[0].getLsbD 7 = false ∧ crc8 (f.toList.take 6) = f[6]) ∧
    ((#v[0x80, 0, 0, 0, 0, 0, 0] : Vector Byte 7)[0].getLsbD 7 = true) ∧
    (crc8 ((#v[0x00, 0x1B, 0x33, 0x5A, 0x9A, 0x3B, 0xBD] : Vector Byte 7).toList.take 6) ≠
      (#v[0x00, 0x1B, 0x33, 0x5A, 0x9A, 0x3B, 0xBD] : Vector Byte 7)[6]) := by
  unfold AtRest Undisturbed; decide +kernel

theorem wit_SettleWaitLastsItsTicks :
    ∀ p ∈ [(HostCmd.initializeCmd, Settle.init), (.softReset, .softReset), (.measure true, .measure)],
      (answers [] [] [3] (running p.1 .measuring (.settle p.2) [])).env.inputs = [] ∧
      (answers [] [] [3] (running p.1 .measuring (.settle p.2) [])).stat.busy = true ∧
      (answers [] [] [3] (running p.1 .measuring (.settle p.2) [])).cur = some p.1 ∧
      (answers [] [] [3] (running p.1 .measuring (.settle p.2) [])).seq = .settle p.2 ∧
      (answers [] [] [3] (running p.1 .measuring (.settle p.2) [])).env.waitExtras = 3 :: [] := by decide

/-- The three rows answer a next state; a byte index inside the read, a byte of RX beyond it. -/
theorem wit_TransportFrame :
    nextHas (exec .busWrite (idleIn .ready 1)) (fun _ => true) = true ∧
    nextHas (exec .busRead (answers [] [.byte 3] [] (running .busRead .ready (.data .hostRead 0) []))) (fun _ => true) = true ∧
    0 < (running .busRead .ready (.data .hostRead 0) []).len.toNat ∧
    (running .busRead .ready (.data .hostRead 0) []).len.toNat ≤ (1 : Fin 7).val ∧
    nextHas (exec (.busAddressByte 0x38 .write) (answers [.nack] [] [] (running .busWrite .ready (.address .hostWrite) [])))
      (fun _ => true) = true := by decide

theorem wit_DeviceCommandFrame :
    nextHas (exec .devInit (answers [.ack] [] [] (running .initializeCmd .ready (.data .initWrite 0) [])))
      (fun _ => true) = true := by decide

theorem wit_SequencerFrame :
    nextHas (exec .statusRead (answers [] [.byte 8] [] (running .statusRead .ready (.data (.statusRead false) 0) [])))
      (fun _ => true) = true ∧
    nextHas (exec .initializeCmd (answers [] [.byte 8] [] (running .initializeCmd .ready (.data (.statusRead true) 0) [])))
      (fun _ => true) = true ∧
    nextHas (exec .softReset (running .softReset .ready (.final .none) [])) (fun _ => true) = true := by decide

theorem wit_MeasureFrame :
    nextHas (exec (.measure false) (answers [] [.byte 8] [] (running (.measure false) .measuring (.data (.frameRead false) 5) [])))
      (fun _ => true) = true ∧
    (running (.measure false) .measuring (.data (.frameRead false) 5) []).seq ≠ .evaluate := by decide

/-! ### Witnesses for the statements about every state that meets the invariant -/

/-- The invariant's clauses on a running command, as one closed question. -/
def runningInv (c : HostCmd) (s : State) : Bool :=
  s.cur == some c && s.stat.busy && fits c s.seq &&
  (match s.seq with
    | .data x i => decide (i < xferLen s x)
    | _ => true) &&
  (!usesLen c || s.len != 0) && s.bus == busAt s.seq && tracePhase s.trace == some (phaseAt s.seq) &&
  ((s.stat.fsm == .measuring) == isMeasuring s.cur s.seq) && s.preFsm != .measuring &&
  (s.stat.fsm == .measuring || s.stat.fsm == s.preFsm) && !s.stat.done && !s.stat.ok && s.stat.err == .none &&
  (s.stat.fsm != .ready || s.stat.valid) && (s.stat.valid || (s.rawH == 0 && s.rawT == 0)) && s.waitLeft == 0 &&
  (match s.seq with
    | .ticking _ => false
    | _ => true)

theorem runningInv_sound {c : HostCmd} {s : State} (h : runningInv c s = true) : Inv s := by
  simp only [runningInv, Bool.and_eq_true, beq_iff_eq, Bool.not_eq_true', bne_iff_ne, ne_eq, Bool.or_eq_true] at h
  obtain ⟨⟨⟨⟨⟨⟨⟨⟨⟨⟨⟨⟨⟨⟨⟨⟨hc, hb⟩, hf⟩, hr⟩, hl⟩, hbus⟩, htr⟩, hm⟩, hp⟩, hk⟩, hd⟩, ho⟩, he⟩, hv⟩, hw⟩, hwl⟩, hq⟩ := h
  constructor
  · simp [hc]
  · intro c' h'; cases hc.symm.trans h'; exact ⟨hb, hf⟩
  · intro x i h'; simpa [h'] using hr
  · intro c' h' hu; cases hc.symm.trans h'; simpa [hu] using hl
  · exact hbus
  · exact htr
  · rw [← hm]; simp
  · exact hp
  · intro _; exact hk
  · intro _; exact hd
  · intro _; exact ⟨ho, he⟩
  · simp [hd]
  · intro h'; simpa [h'] using hv
  · intro h'; simpa [h'] using hw
  · constructor
    · intro h'; exact absurd hwl h'
    · rintro ⟨w, h'⟩; simp [h'] at hq

/-- STATUS_READ where the Status Byte 0x1C arrives: DEVSTAT changes. -/
def midStatus : State :=
  answers [] [.byte 0x1C] [] (running .statusRead .ready (.data (.statusRead false) 0)
    [.start, .tx 0x70 .ack, .tx 0x71 .ack, .stop, .start, .tx 0x71 .ack])

/-- MEASURE with CRC over a frame that is busy or whose CRC is right, at its final step. -/
def midFrame (f : Vector Byte 7) : State := holding f (running (.measure true) .measuring .evaluate [.wait 80])

theorem wit_InvariantKeptByEveryStep : Inv midStatus ∧ nextHas (step midStatus) (fun _ => true) = true :=
  ⟨runningInv_sound (c := .statusRead) (by decide), by decide +kernel⟩

theorem wit_EveryStepAnswers : Inv midStatus := runningInv_sound (c := .statusRead) (by decide)

/-- A frame whose CRC is right. -/
def goodFrame : Vector Byte 7 := #v[0x00, 0x1B, 0x33, 0x5A, 0x9A, 0x3B, 0xBC]

theorem wit_ReadingChangesOnlyOnSuccess :
    resetPending (midFrame goodFrame) = false ∧
    nextHas (step (midFrame goodFrame)) (fun t => t.rawH != (midFrame goodFrame).rawH) = true := by decide +kernel

theorem wit_CrcRegistersWrittenOnlyByMeasureCrc :
    Inv (midFrame goodFrame) ∧ resetPending (midFrame goodFrame) = false ∧
    nextHas (step (midFrame goodFrame)) (fun t => t.crcCalc != (midFrame goodFrame).crcCalc) = true :=
  ⟨runningInv_sound (c := .measure true) (by decide), by decide +kernel, by decide +kernel⟩

/-- A status read, a failed status read under AS_ZERO, a frame. -/
theorem wit_DevstatWrittenByStatusAndFrame :
    (Inv midStatus ∧ resetPending midStatus = false ∧
      nextHas (step midStatus) (fun t => t.devstat != midStatus.devstat) = true) ∧
    (Inv { asZero (running .statusRead .ready (.stop (.statusWrite false) false) [.start, .fail .device]) with devstat := 8 } ∧
      nextHas (step { asZero (running .statusRead .ready (.stop (.statusWrite false) false) [.start, .fail .device]) with devstat := 8 })
        (fun t => t.devstat != 8) = true) ∧
    (Inv (midFrame #v[0x80, 0, 0, 0, 0, 0, 0]) ∧
      nextHas (step (midFrame #v[0x80, 0, 0, 0, 0, 0, 0]))
        (fun t => t.devstat != (midFrame #v[0x80, 0, 0, 0, 0, 0, 0]).devstat) = true) :=
  ⟨⟨runningInv_sound (c := .statusRead) (by decide), by decide +kernel, by decide +kernel⟩,
    ⟨runningInv_sound (c := .statusRead) (by decide), by decide +kernel⟩,
    runningInv_sound (c := .measure true) (by decide), by decide +kernel⟩

theorem wit_FsmTransitions :
    Inv (running .softReset .ready (.final .none) []) ∧
    nextHas (step (running .softReset .ready (.final .none) []))
      (fun t => t.stat.fsm != (running .softReset .ready (.final .none) []).stat.fsm) = true :=
  ⟨runningInv_sound (c := .softReset) (by decide), by decide +kernel⟩

theorem wit_BusyEndsWithDone :
    Inv (running .softReset .ready (.final .none) []) ∧
    resetPending (running .softReset .ready (.final .none) []) = false ∧
    (running .softReset .ready (.final .none) []).stat.busy = true ∧
    nextHas (step (running .softReset .ready (.final .none) [])) (fun t => !t.stat.busy) = true :=
  ⟨runningInv_sound (c := .softReset) (by decide), by decide +kernel, by decide +kernel, by decide +kernel⟩

theorem wit_NoTransactionLeftOpen :
    Inv (running .softReset .ready (.final .none) []) ∧
    nextHas (runSteps 1 (running .softReset .ready (.final .none) [])) (fun t => !t.stat.busy) = true :=
  ⟨runningInv_sound (c := .softReset) (by decide), by decide +kernel⟩

theorem wit_OperandsFixedDuringACommand :
    resetPending midStatus = false ∧ midStatus.stat.busy = true ∧
    nextHas (step midStatus) (fun _ => true) = true := by decide

theorem wit_OneBusEventPerStep :
    resetPending midStatus = false ∧ nextHas (step midStatus) (fun t => t.trace != midStatus.trace) = true := by decide

theorem wit_RefusedMarkStays :
    ({ idleIn .ready 1 with refused := some .busy } : State).refused = some .busy ∧
    nextHas (runSteps 1 { idleIn .ready 1 with refused := some .busy }) (fun _ => true) = true := by decide

theorem wit_Byte3BelongsToOneField :
    (0 < 4 ∧ 3 < 4) ∧ (4 ≤ 4 ∧ 4 < 8) ∧ (4 ≤ 7 ∧ 7 < 8) := by decide

theorem wit_ConversionRanges : (0xFFFFE : Raw).toNat < (0xFFFFF : Raw).toNat := by decide

theorem wit_DefaultReadingUntilValid :
    (idleIn .calibrated 0).stat.valid = false ∧ (idleIn .ready 0).stat.valid = true := by decide

end Sys2Proof.Tests
end

section
/-! The statements about the state: its reset values, the word STAT reads as, and the Decoded Reading. -/

namespace Sys2Proof.Proofs

open Sys2Proof.Machine Sys2Proof.Laws

/-! ### Reset -/

/-- Settles O9, register by register and element by element. -/
theorem resetValues : Obligations.ResetValues :=
  ⟨fun r => by cases r <;> decide, rfl, rfl, rfl, rfl, rfl, rfl, rfl⟩

/-! ### The word STAT reads as -/

/-- STAT bit by bit: the table of section 2.2. -/
theorem statWord_getLsbD (t : Stat) (i : Nat) : t.word.getLsbD i =
    if i = 0 then t.busy else if i = 1 then t.done else if i = 2 then t.ok else if i = 3 then false
    else if i < 7 then t.err.code.getLsbD (i - 4) else if i = 7 then false
    else if i < 10 then t.fsm.code.getLsbD (i - 8) else if i = 10 then t.valid else false := by
  unfold Stat.word
  rw [BitVec.getLsbD_setWidth]
  by_cases hi : i < 11
  · simp only [BitVec.getLsbD_append]
    interval_cases i <;> simp
  · rw [BitVec.getLsbD_of_ge _ i (by omega), Bool.and_false]
    repeat rw [if_neg (by omega)]

theorem statWord_err (t : Stat) : t.word.extractLsb' 4 3 = t.err.code := by
  ext i hi
  rw [BitVec.getElem_extractLsb', statWord_getLsbD]
  interval_cases i <;> simp

theorem statWord_fsm (t : Stat) : t.word.extractLsb' 8 2 = t.fsm.code := by
  ext i hi
  rw [BitVec.getElem_extractLsb', statWord_getLsbD]
  interval_cases i <;> simp

/-- Settles O11: bits 3 and 7 and those from 11 on read 0, and each field's bits are its code. -/
theorem statusFieldsInPlace : Obligations.StatusFieldsInPlace := by
  intro s
  refine ⟨fun i hi => ?_, statWord_getLsbD s.stat 0, statWord_getLsbD s.stat 1, statWord_getLsbD s.stat 2,
    statWord_getLsbD s.stat 10, ?_, ?_⟩
  · refine (statWord_getLsbD s.stat i).trans ?_
    rcases hi with rfl | rfl | ⟨hi, -⟩
    · rfl
    · rfl
    · repeat rw [if_neg (by omega)]
  · have herr := congrArg BitVec.toNat (statWord_err s.stat)
    rw [BitVec.extractLsb'_toNat, Nat.shiftRight_eq_div_pow] at herr
    exact herr.trans (by cases s.stat.err <;> rfl)
  · have hfsm := congrArg BitVec.toNat (statWord_fsm s.stat)
    rw [BitVec.extractLsb'_toNat, Nat.shiftRight_eq_div_pow] at hfsm
    exact hfsm.trans (by cases s.stat.fsm <;> rfl)

/-! ### What completes a step without an instruction -/

/-- `t` differs from `s` at most in what a host access can change: ADDR, LEN, TX, the refused mark and
the world outside. -/
def SameButHostSide (s t : State) : Prop :=
  t = { s with devAddr := t.devAddr, len := t.len, tx := t.tx, refused := t.refused, env := t.env }

theorem SameButHostSide.of_setInputs {l : List (Nat × HostAction)} {s t : State}
    (h : SameButHostSide (setInputs l s) t) : SameButHostSide s t := h

theorem readMapped_sameButHostSide (r : RegName) (off : Offset) (s : State) :
    SameButHostSide s (readMapped r off s) := by
  unfold readMapped
  split <;> rfl

theorem hostRead_sameButHostSide (n : Nat) (off : Offset) (s : State) : SameButHostSide s (hostRead n off s) := by
  unfold hostRead
  split
  · rfl
  · exact readMapped_sameButHostSide _ off s

/-- STAT is never a draw, so a POLL's reading is its value (R46, R84). -/
theorem readMapped_stat (off : Offset) (s : State) :
    readMapped .stat off s = returnValue off s.stat.word s := by
  simp [readMapped, isRxd, readReg]

theorem pollStat_sameButHostSide (gap : Nat) (s : State) : SameButHostSide s (pollStat gap s) := by
  simp only [pollStat, readMapped_stat]
  split <;> rfl

theorem storeAt_sameButHostSide (off : Offset) (v : Word) (s : State) : SameButHostSide s (storeAt off v s) := by
  unfold storeAt
  split
  · next r _ => cases r <;> rfl
  · rfl

/-- A host access that runs no instruction, block reset apart, reaches nothing the block computes. -/
theorem hostTurn_complete {a : HostAction} {s t : State} (ha : a ≠ .blockReset)
    (h : hostTurn a s = .complete t) : SameButHostSide s t := by
  cases a with
  | read size off => cases h; exact hostRead_sameButHostSide size off s
  | write size off v =>
    simp only [hostTurn, hostWrite] at h
    split at h
    · cases h; rfl
    · split at h
      · split at h <;> cases h
        rfl
      · cases h; exact storeAt_sameButHostSide off v s
  | poll gap => cases h; exact pollStat_sameButHostSide gap s
  | blockReset => exact absurd rfl ha

theorem blockTurn_complete {s t : State} (h : blockTurn s = .complete t) : t = s := by
  unfold blockTurn at h
  split at h
  · cases h; rfl
  · split at h <;> cases h

/-- Block reset apart, a step that completes without an instruction is a host access or an idle block's
wait, and leaves everything the block computes. -/
theorem fetch_complete {s t : State} (hr : resetPending s = false) (h : fetch s = .complete t) :
    SameButHostSide s t := by
  unfold fetch at h
  split at h
  · rw [blockTurn_complete h]; rfl
  · next a rest hin =>
    have ha : a ≠ .blockReset := by
      rintro rfl
      simp [resetPending, hin] at hr
    exact (hostTurn_complete ha h).of_setInputs
  · rw [blockTurn_complete h]; rfl

/-! ### What an instruction runs on -/

theorem hostTurn_run {a : HostAction} {s u : State} {i : Instr} (h : hostTurn a s = .run i u) : u = s := by
  cases a with
  | write size off v =>
    simp only [hostTurn, hostWrite] at h
    split at h
    · cases h
    · split at h
      · split at h <;> cases h
        rfl
      · cases h
  | read size off => cases h
  | poll gap => cases h
  | blockReset => cases h

theorem blockTurn_run {s u : State} {i : Instr} (h : blockTurn s = .run i u) : u = s := by
  unfold blockTurn at h
  split at h
  · cases h
  · split at h <;> cases h
    rfl

/-- An instruction runs on the present state, but for the inputs still to come. -/
theorem fetch_run {s u : State} {i : Instr} (h : fetch s = .run i u) : ∃ l, u = setInputs l s := by
  unfold fetch at h
  split at h
  · exact ⟨s.env.inputs, blockTurn_run h⟩
  · exact ⟨_, hostTurn_run h⟩
  · exact ⟨_, blockTurn_run h⟩

/-- What a command word can do: it is issued, takes the running command's next step, or is refused. -/
theorem asCommand_cases {c : HostCmd} {f : State → Host.Outcome State Fault Refusal} {s t : State}
    (h : asCommand c f s = .next t) :
    (s.stat.busy = false ∧ t = issue c s) ∨ (s.stat.busy = true ∧ s.cur = some c ∧ f s = .next t) ∨
      (s.stat.busy = true ∧ s.cur ≠ some c ∧ t = refuse .busy s) := by
  unfold asCommand at h
  split at h
  · next hb => cases h; exact .inl ⟨hb, rfl⟩
  · next hb =>
    have hb : s.stat.busy = true := by simpa using hb
    split at h
    · next hc => exact .inr (.inl ⟨hb, hc, h⟩)
    · next hc => cases h; exact .inr (.inr ⟨hb, hc, rfl⟩)

/-! ### The Decoded Reading -/

/-- RAW_H, RAW_T and VALID are those of `s` (R41). -/
def ReadingKept (s t : State) : Prop := t.rawH = s.rawH ∧ t.rawT = s.rawT ∧ t.stat.valid = s.stat.valid

theorem SameButHostSide.readingKept {s t : State} (h : SameButHostSide s t) : ReadingKept s t := by
  unfold SameButHostSide at h
  rw [h]
  exact ⟨rfl, rfl, rfl⟩

theorem issue_readingKept (c : HostCmd) (s : State) : ReadingKept s (issue c s) := by
  unfold issue
  split <;> exact ⟨rfl, rfl, rfl⟩

theorem finish_setFsm_readingKept (e : ErrCode) (f : Fsm) (s : State) : ReadingKept s (finish e (setFsm f s)) :=
  ⟨rfl, rfl, rfl⟩

theorem beginMeasure_readingKept (s : State) : ReadingKept s (beginMeasure s) := by
  unfold beginMeasure
  split <;> exact ⟨rfl, rfl, rfl⟩

/-- A command word keeps the reading if the running command's step does. -/
theorem asCommand_readingKept {c : HostCmd} {f : State → Host.Outcome State Fault Refusal} {s t : State}
    (hf : f s = .next t → ReadingKept s t) (h : asCommand c f s = .next t) : ReadingKept s t := by
  rcases asCommand_cases h with ⟨-, rfl⟩ | ⟨-, -, hrun⟩ | ⟨-, -, rfl⟩
  · exact issue_readingKept c s
  · exact hf hrun
  · exact ⟨rfl, rfl, rfl⟩

theorem advanceBusWrite_readingKept {s t : State} (h : advanceBusWrite s = .next t) : ReadingKept s t := by
  unfold advanceBusWrite at h
  split at h <;> cases h <;> simp [ReadingKept, Stat.finished]

theorem advanceBusRead_readingKept {s t : State} (h : advanceBusRead s = .next t) : ReadingKept s t := by
  unfold advanceBusRead at h
  split at h <;> cases h <;> simp [ReadingKept, Stat.finished]

theorem advanceStatusRead_readingKept {s t : State} (h : advanceStatusRead s = .next t) : ReadingKept s t := by
  unfold advanceStatusRead at h
  split at h <;> cases h <;> simp [ReadingKept, Stat.finished]

theorem advanceInitialize_readingKept {s t : State} (h : advanceInitialize s = .next t) : ReadingKept s t := by
  unfold advanceInitialize at h
  split at h <;> cases h <;> simp [ReadingKept, Stat.finished]

theorem advanceSoftReset_readingKept {s t : State} (h : advanceSoftReset s = .next t) : ReadingKept s t := by
  unfold advanceSoftReset at h
  split at h <;> cases h <;> simp [ReadingKept, Stat.finished]

/-- Every step of MEASURE but the one over the received frame keeps the reading. -/
theorem advanceMeasure_cases {c : Bool} {s t : State} (h : advanceMeasure c s = .next t) :
    ReadingKept s t ∨ (s.seq = .evaluate ∧ t = evaluateFrame c s) := by
  unfold advanceMeasure at h
  split at h
  case h_1 => cases h; exact .inl (beginMeasure_readingKept s)
  case h_8 hseq => cases h; exact .inr ⟨hseq, rfl⟩
  all_goals cases h <;> exact .inl (by simp [ReadingKept, Stat.finished])

/-- `t` has taken the reading of the frame that `s` holds, and its command has ended with success (R184). -/
def ReadingTaken (s t : State) : Prop :=
  t.stat = { doneStat s.stat .none with fsm := .ready, valid := true } ∧
    t.rawH = humidityField s.rx[1] s.rx[2] s.rx[3] ∧ t.rawT = temperatureField s.rx[3] s.rx[4] s.rx[5]

/-- A frame that is busy or fails its CRC keeps the reading; any other is taken whole (R181, R182, R184). -/
theorem evaluateFrame_reading (c : Bool) (s : State) :
    ReadingKept s (evaluateFrame c s) ∨ ReadingTaken s (evaluateFrame c s) := by
  rcases evaluateFrame_cases c s with ⟨-, h⟩ | ⟨-, -, -, h⟩ | ⟨-, -, -, h⟩ | ⟨-, -, h⟩ <;> rw [h]
  · exact .inl (finish_setFsm_readingKept _ _ _)
  · exact .inl (finish_setFsm_readingKept _ _ _)
  · exact .inr ⟨rfl, rfl, rfl⟩
  · exact .inr ⟨rfl, rfl, rfl⟩

/-- A step of sending a byte keeps the reading. -/
theorem transmit_readingKept (x : Xfer) (b : Byte) (q : Seq) (s : State) : ReadingKept s (transmit x b q s) := by
  simp [ReadingKept]

/-- Whatever an instruction does to the reading: nothing, or a MEASURE over its frame takes a new one. -/
theorem exec_reading {i : Instr} {s t : State} (h : exec i s = .next t) :
    ReadingKept s t ∨ ((∃ c, s.cur = some (.measure c)) ∧ s.seq = .evaluate ∧ ReadingTaken s t) := by
  cases i with
  | busWrite => exact .inl (asCommand_readingKept advanceBusWrite_readingKept h)
  | busRead => exact .inl (asCommand_readingKept advanceBusRead_readingKept h)
  | statusRead => exact .inl (asCommand_readingKept advanceStatusRead_readingKept h)
  | initializeCmd => exact .inl (asCommand_readingKept advanceInitialize_readingKept h)
  | softReset => exact .inl (asCommand_readingKept advanceSoftReset_readingKept h)
  | measure c =>
    rcases asCommand_cases h with ⟨-, rfl⟩ | ⟨-, hcur, hrun⟩ | ⟨-, -, rfl⟩
    · exact .inl (issue_readingKept _ s)
    · rcases advanceMeasure_cases hrun with hkept | ⟨hseq, rfl⟩
      · exact .inl hkept
      · exact (evaluateFrame_reading c s).imp_right fun htaken => ⟨⟨c, hcur⟩, hseq, htaken⟩
    · exact .inl ⟨rfl, rfl, rfl⟩
  | devInit | devMeasure | devSoftReset | devStatus =>
    simp only [exec, execDevInit, execDevMeasure, execDevSoftReset, execDevStatus] at h
    split at h <;> cases h
    exact .inl (transmit_readingKept _ _ _ s)
  | busAddressByte a d =>
    simp only [exec, execBusAddressByte] at h
    split at h
    · split at h <;> cases h
      exact .inl (transmit_readingKept _ _ _ s)
    · cases h

/-- Settles O44: a step that completes without an instruction keeps the reading, and an instruction
changes it only where a MEASURE takes it from its frame. -/
theorem readingChangesOnlyOnSuccess : Obligations.ReadingChangesOnlyOnSuccess := by
  intro s t hstep hreset hchanged
  have hnot : ¬ ReadingKept s t := by
    rintro ⟨hh, ht, hv⟩
    simp [hh, ht, hv] at hchanged
  rcases step_next hstep with hdone | ⟨i, u, hrun, hexec⟩
  · exact absurd (fetch_complete hreset hdone).readingKept hnot
  · obtain ⟨l, rfl⟩ := fetch_run hrun
    exact (exec_reading hexec).resolve_left hnot

end Sys2Proof.Proofs
end

section
/-! The statements about the host register space: the bytes of a buffer in its two registers. -/

namespace Sys2Proof.Proofs

open Sys2Proof.Machine

/-! ### Lanes -/

/-- Appending a byte below moves every lane up by one (R63). -/
theorem lane_append_byte {n : Nat} (hi : BitVec n) (lo : Byte) (k : Nat) :
    (hi ++ lo).extractLsb' (8 * (k + 1)) 8 = hi.extractLsb' (8 * k) 8 :=
  BitVec.extractLsb'_append_eq_of_le (by omega)

/-- Lane `i` of four packed bytes is byte `i`: the `i` bytes below it are passed over one by one (R63). -/
theorem lane_packWord (b0 b1 b2 b3 : Byte) (i : Fin 4) :
    lane (packWord b0 b1 b2 b3) i = #v[b0, b1, b2, b3][i] := by
  match i with
  | 0 => exact BitVec.extractLsb'_append_eq_right
  | 1 => exact (lane_append_byte _ b0 0).trans BitVec.extractLsb'_append_eq_right
  | 2 =>
    exact (lane_append_byte _ b0 1).trans <| (lane_append_byte _ b1 0).trans BitVec.extractLsb'_append_eq_right
  | 3 =>
    exact (lane_append_byte _ b0 2).trans <| (lane_append_byte _ b1 1).trans <|
      (lane_append_byte _ b2 0).trans BitVec.extractLsb'_eq_self

/-- The two registers of a buffer hold its bytes 0 to 3 and 4 to 6, in lanes from 0 on (R63). -/
theorem lane_bufferWord (b : Vector Byte 7) (i : Fin 7) :
    lane (if i.val < 4 then lowWord b else highWord b) (i.val % 4) = b[i] := by
  match i with
  | 0 => exact lane_packWord _ _ _ _ 0
  | 1 => exact lane_packWord _ _ _ _ 1
  | 2 => exact lane_packWord _ _ _ _ 2
  | 3 => exact lane_packWord _ _ _ _ 3
  | 4 => exact lane_packWord _ _ _ _ 0
  | 5 => exact lane_packWord _ _ _ _ 1
  | 6 => exact lane_packWord _ _ _ _ 2

/-- Bits 31:24 of a buffer's second register read 0 (R35, R36). -/
theorem lane_highWord_top (b : Vector Byte 7) : lane (highWord b) 3 = 0 := lane_packWord _ _ _ _ 3

/-- Settles O12: TXD0 and TXD1 hold the two words of TX, RXD0 and RXD1 those of RX. -/
theorem bufferLanesLittleEndian : Obligations.BufferLanesLittleEndian := by
  intro s i
  rw [apply_ite (readReg · s), apply_ite (readReg · s)]
  exact ⟨lane_bufferWord s.tx i, lane_bufferWord s.rx i, lane_highWord_top s.tx, lane_highWord_top s.rx⟩

end Sys2Proof.Proofs
end

section
/-! The statement about the encoding of command words (R71): its fields, read as numbers. -/

namespace Sys2Proof.Proofs

/-! ### The fields of a command word -/

/-- Bits 31:4, the reserved bits. -/
theorem reservedField_eq_zero_iff (v : Word) : v.extractLsb' 4 28 = 0 ↔ v.toNat / 16 = 0 := by
  have hlt : v.toNat / 16 < 2 ^ 28 := Nat.div_lt_of_lt_mul v.isLt
  rw [← BitVec.toNat_inj, BitVec.extractLsb'_toNat, Nat.shiftRight_eq_div_pow, Nat.mod_eq_of_lt hlt]
  rfl

/-- Bits 2:0, the opcode. -/
theorem opField_eq_iff (v : Word) (op : BitVec 3) : v.extractLsb' 0 3 = op ↔ v.toNat % 8 = op.toNat := by
  rw [← BitVec.toNat_inj, BitVec.extractLsb'_toNat]
  rfl

/-- Bit 3, CRC_EN. -/
theorem crcEnBit_eq_decide (v : Word) : v.getLsbD 3 = decide (v.toNat / 8 % 2 = 1) :=
  Nat.testBit_eq_decide_div_mod_eq

/-- R71's decoder with each field a number: the same checks in the same order. -/
theorem decodeWord_eq_numeric (v : Word) :
    decodeWord v =
      if v.toNat / 16 ≠ 0 then .error .reservedBits
      else if v.toNat % 8 = 0 ∨ v.toNat % 8 = 7 then .error .reservedOpcode
      else if v.toNat % 8 ≠ 6 ∧ v.toNat / 8 % 2 = 1 then .error .crcEnWithoutMeasure
      else if v.toNat % 8 = 1 then .ok .busWrite
      else if v.toNat % 8 = 2 then .ok .busRead
      else if v.toNat % 8 = 3 then .ok .statusRead
      else if v.toNat % 8 = 4 then .ok .initializeCmd
      else if v.toNat % 8 = 5 then .ok .softReset
      else .ok (.measure (decide (v.toNat / 8 % 2 = 1))) := by
  simp only [decodeWord, ne_eq, reservedField_eq_zero_iff, opField_eq_iff, crcEnBit_eq_decide,
    decide_eq_true_eq]
  rfl

/-- Settles O2: each clause picks one branch of the numeric decoder. -/
theorem commandWordFields : Obligations.CommandWordFields := by
  intro v
  rw [decodeWord_eq_numeric]
  refine ⟨fun hres => if_pos hres, fun hres hop => ?reservedOpcode, fun hres h0 h7 h6 hcrc => ?crcEnAlone,
    fun hres hcrc => ?crcEnClear, fun hres hcrc hop => ?measureWithCrc⟩
  case reservedOpcode => rw [if_neg (not_not.mpr hres), if_pos hop]
  case crcEnAlone =>
    rw [if_neg (not_not.mpr hres), if_neg (not_or.mpr ⟨h0, h7⟩), if_pos ⟨h6, hcrc⟩]
  case crcEnClear => refine ⟨?_, ?_, ?_, ?_, ?_, ?_⟩ <;> (intro hop; simp [hres, hcrc, hop])
  case measureWithCrc => simp [hres, hcrc, hop]

end Sys2Proof.Proofs
end

section
/-! The statements about the measurement frame parser: its two fields are concatenations, so each is
fixed by the bytes and the nibble in it, and any value of it can be cut into them. -/

namespace Sys2Proof.Proofs

open Sys2Proof.Machine

/-! ### The fields as concatenations -/

theorem humidityField_eq_append (b1 b2 b3 : Byte) : humidityField b1 b2 b3 = b1 ++ b2 ++ b3.extractLsb' 4 4 := by
  rw [humidityField, ← BitVec.setWidth_eq (b1 ++ b2 ++ b3.extractLsb' 4 4),
    BitVec.setWidth_append_append_eq_shiftLeft_setWidth_or]

theorem temperatureField_eq_append (b3 b4 b5 : Byte) :
    temperatureField b3 b4 b5 = b3.extractLsb' 0 4 ++ b4 ++ b5 := by
  rw [temperatureField, ← BitVec.setWidth_eq (b3.extractLsb' 0 4 ++ b4 ++ b5),
    BitVec.setWidth_append_append_eq_shiftLeft_setWidth_or]

/-- MEASURE takes from RX what `Parse` takes from the frame in it (R121, R177). -/
theorem parse_take_frameLen (b : Vector Byte 7) (c : Bool) :
    parse (b.toList.take (frameLen c)) = some (parseBuffer b c) := by
  obtain ⟨⟨l⟩, hlen⟩ := b
  match l, hlen with
  | [_, _, _, _, _, _, _], _ => cases c <;> rfl

/-- Settles O55, by the two fields as concatenations. -/
theorem parserConcatenates : Obligations.ParserConcatenates := by
  refine ⟨fun b0 b1 b2 b3 b4 b5 b6 => ?_, parse_take_frameLen⟩
  rw [← humidityField_eq_append, ← temperatureField_eq_append]
  exact ⟨rfl, rfl⟩

/-! ### What of a byte a field depends on -/

/-- Byte 3 counts in the humidity field by its high nibble alone (R122). -/
theorem humidityField_eq_iff (b1 b2 x y : Byte) :
    humidityField b1 b2 x = humidityField b1 b2 y ↔ x.extractLsb' 4 4 = y.extractLsb' 4 4 := by
  rw [humidityField_eq_append, humidityField_eq_append]
  exact BitVec.append_right_inj _

/-- Byte 3 counts in the temperature field by its low nibble alone (R123). -/
theorem temperatureField_eq_iff (x y b4 b5 : Byte) :
    temperatureField x b4 b5 = temperatureField y b4 b5 ↔ x.extractLsb' 0 4 = y.extractLsb' 0 4 := by
  rw [temperatureField_eq_append, temperatureField_eq_append]
  exact (BitVec.append_left_inj b5).trans (BitVec.append_left_inj b4)

/-- Flipping the bits of a mask keeps a part of a byte exactly where the mask is clear there. -/
theorem extractLsb'_xor_eq_iff (b mask : Byte) (start len : Nat) :
    (b ^^^ mask).extractLsb' start len = b.extractLsb' start len ↔ mask.extractLsb' start len = 0 := by
  rw [BitVec.extractLsb'_xor]
  simp

/-- Bits 3:0 are those of the low nibble, and not of the high one. -/
theorem nibbles_of_low_bit : ∀ k < 4,
    (BitVec.twoPow 8 k).extractLsb' 4 4 = 0 ∧ (BitVec.twoPow 8 k).extractLsb' 0 4 ≠ 0 := by decide

/-- Bits 7:4 are those of the high nibble, and not of the low one. -/
theorem nibbles_of_high_bit : ∀ k < 8, 4 ≤ k →
    (BitVec.twoPow 8 k).extractLsb' 4 4 ≠ 0 ∧ (BitVec.twoPow 8 k).extractLsb' 0 4 = 0 := by decide

/-- Byte 0 goes to the status alone: for every length, another byte 0 changes nothing else (R127). -/
theorem parse_cons_status (a b : Byte) (rest : List Byte) :
    parse (a :: rest) = (parse (b :: rest)).map ({ · with status := a }) := by
  match rest with
  | [] | [_] | [_, _] | [_, _, _] | [_, _, _, _] | [_, _, _, _, _] | [_, _, _, _, _, _] => rfl
  | _ :: _ :: _ :: _ :: _ :: _ :: _ :: _ => rfl

/-- Settles O56: the flipped bit stands in one nibble of byte 3, and each field depends on one nibble. -/
theorem byte3BelongsToOneField : Obligations.Byte3BelongsToOneField := by
  refine ⟨fun b1 b2 b3 b4 b5 k => ⟨fun hlow => ?low, fun hge hlt => ?high⟩, fun a b rest => ?byte0⟩
  case low =>
    rw [ne_eq, humidityField_eq_iff, temperatureField_eq_iff, extractLsb'_xor_eq_iff, extractLsb'_xor_eq_iff]
    exact nibbles_of_low_bit k hlow
  case high =>
    rw [ne_eq, humidityField_eq_iff, temperatureField_eq_iff, extractLsb'_xor_eq_iff, extractLsb'_xor_eq_iff]
    exact nibbles_of_high_bit k hlt hge
  case byte0 =>
    rw [parse_cons_status a b, Option.map_map]
    rfl

/-! ### Every value is a field -/

/-- Twenty bits are their top byte, their middle byte and their low nibble. -/
theorem raw_eq_byte_byte_nibble (h : Raw) :
    h.extractLsb' 12 8 ++ h.extractLsb' 4 8 ++ h.extractLsb' 0 4 = h := by
  rw [BitVec.extractLsb'_append_extractLsb'_eq_extractLsb' (start₂ := 12) (start₁ := 4) rfl]
  exact BitVec.extractLsb'_append_extractLsb'

/-- Twenty bits are their top nibble, their middle byte and their low byte. -/
theorem raw_eq_nibble_byte_byte (t : Raw) :
    t.extractLsb' 16 4 ++ t.extractLsb' 8 8 ++ t.extractLsb' 0 8 = t := by
  rw [BitVec.extractLsb'_append_extractLsb'_eq_extractLsb' (start₂ := 16) (start₁ := 8) rfl]
  exact BitVec.extractLsb'_append_extractLsb'

/-- Byte 3 can hold any two nibbles: a humidity field ends in its high one. -/
theorem humidityField_append (b1 b2 : Byte) (hi lo : BitVec 4) :
    humidityField b1 b2 (hi ++ lo) = b1 ++ b2 ++ hi := by
  rw [humidityField_eq_append, BitVec.extractLsb'_append_eq_left]

/-- Byte 3 can hold any two nibbles: a temperature field begins with its low one. -/
theorem temperatureField_append (hi lo : BitVec 4) (b4 b5 : Byte) :
    temperatureField (hi ++ lo) b4 b5 = lo ++ b4 ++ b5 := by
  rw [temperatureField_eq_append, BitVec.extractLsb'_append_eq_right]

/-- Settles O57: the frame holds the two values cut into bytes, and in byte 3 the low nibble of the one
above the high nibble of the other. -/
theorem everyRawPairIsParsed : Obligations.EveryRawPairIsParsed := by
  intro status h t
  refine ⟨h.extractLsb' 12 8, h.extractLsb' 4 8, h.extractLsb' 0 4 ++ t.extractLsb' 16 4,
    t.extractLsb' 8 8, t.extractLsb' 0 8, ?_⟩
  rw [parse, humidityField_append, temperatureField_append, raw_eq_byte_byte_nibble, raw_eq_nibble_byte_byte]

end Sys2Proof.Proofs
end

section
/-! The statements about the CRC-8 validator: a frame with its own CRC-8 appended, and its known values. -/

namespace Sys2Proof.Proofs

open Sys2Proof.Machine Sys2Proof.Laws

/-- With no final XOR (R141), a byte equal to the register clears it. -/
theorem crcByte_self (c : Byte) : crcByte c c = 0 := by
  rw [crcByte, BitVec.xor_self]
  exact crcShifts_zero 8

/-- Settles O54: the check compares the appended byte with what it was computed as, and as one more byte
of the CRC it meets a register equal to it. -/
theorem crcAppendedPasses : Obligations.CrcAppendedPasses := by
  refine ⟨fun b0 b1 b2 b3 b4 b5 => ?passes, fun s => ?residue⟩
  case passes => rw [crcCheck, beq_self_eq_true]
  case residue => rw [crc8_snoc, crcByte_self]

/-- Settles O53, by running the validator bit by bit on the spec's two byte sequences. -/
theorem crcKnownValues : Obligations.CrcKnownValues := by
  refine ⟨?checkValue, ?fixture⟩
  case checkValue => simp [crc8, crcByte, crcShifts, crcShift]
  case fixture => simp [crc8, crcByte, crcShifts, crcShift]

end Sys2Proof.Proofs
end

section
/-! The statements about MEASURE's final step: the outcome its frame's busy bit and CRC decide. -/

namespace Sys2Proof.Proofs

open Sys2Proof.Machine Sys2Proof.Laws

/-- At the frame's position the running MEASURE takes its final step over the frame (R177). -/
theorem exec_measure_evaluate {s : State} {c : Bool} (hbusy : s.stat.busy = true)
    (hcur : s.cur = some (.measure c)) (hseq : s.seq = .evaluate) :
    exec (.measure c) s = .next (evaluateFrame c s) := by
  have hadv : advanceMeasure c s = .next (evaluateFrame c s) := by simp only [advanceMeasure, hseq]
  exact (asCommand_running hbusy hcur).trans hadv

/-! ### The outcomes of a frame -/

/-- A busy frame ends MEASURE before its CRC is looked at (R182). -/
theorem evaluateFrame_busy {s : State} (c : Bool) (hbit : busyBit s.rx[0] = true) :
    evaluateFrame c s = finish .deviceBusy (setFsm .calibrated { s with devstat := s.rx[0] }) :=
  if_pos hbit

/-- A frame that is not busy and fails its CRC: both CRC values are recorded (R182). -/
theorem evaluateFrame_badCrc {s : State} (hbit : busyBit s.rx[0] = false)
    (hcrc : (recordCrc s).crcCalc ≠ s.rx[6]) :
    evaluateFrame true s =
      finish .integrity (setFsm .calibrated (recordCrc { s with devstat := s.rx[0] })) :=
  (if_neg (Bool.eq_false_iff.mp hbit)).trans (if_pos hcrc)

/-- A CRC check that passes leaves the received CRC in both of its registers (R38). -/
theorem recordCrc_of_pass {s : State} (hcrc : (recordCrc s).crcCalc = s.rx[6]) :
    recordCrc s = { s with crcCalc := s.rx[6], crcRecv := s.rx[6] } :=
  congrArg (fun computed => { s with crcCalc := computed, crcRecv := s.rx[6] }) hcrc

/-- A frame that is not busy and passes its CRC is taken (R184). -/
theorem evaluateFrame_goodCrc {s : State} (hbit : busyBit s.rx[0] = false)
    (hcrc : (recordCrc s).crcCalc = s.rx[6]) :
    evaluateFrame true s = finish .none (recordReading (parseBuffer s.rx true)
      { s with devstat := s.rx[0], crcCalc := s.rx[6], crcRecv := s.rx[6] }) := by
  rw [← recordCrc_of_pass (s := { s with devstat := s.rx[0] }) hcrc]
  exact (if_neg (Bool.eq_false_iff.mp hbit)).trans (if_neg (not_not.mpr hcrc))

/-- Without CRC_EN a frame that is not busy is taken, and no CRC is recorded (R38, R184). -/
theorem evaluateFrame_noCrc {s : State} (hbit : busyBit s.rx[0] = false) :
    evaluateFrame false s =
      finish .none (recordReading (parseBuffer s.rx false) { s with devstat := s.rx[0] }) :=
  if_neg (Bool.eq_false_iff.mp hbit)

/-- Settles O33: each failure is one outcome of the frame. -/
theorem frameFailuresInOrder : Obligations.FrameFailuresInOrder := by
  intro s c hbusy hcur hseq
  rw [exec_measure_evaluate hbusy hcur hseq]
  refine ⟨fun hbit => ?deviceBusy, fun hbit hc hcrc => ?integrity⟩
  case deviceBusy =>
    rw [evaluateFrame_busy c hbit]
    rfl
  case integrity =>
    subst hc
    rw [evaluateFrame_badCrc hbit hcrc]
    rfl

/-- Settles O34: with and without CRC_EN the frame is taken, and its fields are concatenations. -/
theorem frameSuccessWritesTheReading : Obligations.FrameSuccessWritesTheReading := by
  intro s c hbusy hcur hseq hbit hcrc
  rw [exec_measure_evaluate hbusy hcur hseq, ← humidityField_eq_append, ← temperatureField_eq_append]
  cases c with
  | false =>
    rw [evaluateFrame_noCrc hbit]
    rfl
  | true =>
    rw [evaluateFrame_goodCrc hbit (hcrc rfl)]
    rfl

end Sys2Proof.Proofs
end

section
/-! The statements about the host-side conversion: its ranges and order, and the reading before VALID.
Temperature is a linear image of relative humidity at the same raw value, so its facts follow. -/

namespace Sys2Proof.Proofs

open Sys2Proof.Machine

/-! ### Ranges and order -/

/-- The conversion of a temperature rescales that of a humidity (R211, R212). -/
theorem celsius_eq_relHumidity (t : Raw) : celsius t = 2 * relHumidity t - 50 := by
  unfold celsius relHumidity
  ring

theorem relHumidity_nonneg (h : Raw) : 0 ≤ relHumidity h := by
  unfold relHumidity
  positivity

theorem relHumidity_lt_hundred (h : Raw) : relHumidity h < 100 := by
  have hraw : (h.toNat : Rat) < 2 ^ 20 := by exact_mod_cast h.isLt
  unfold relHumidity
  rw [div_lt_iff₀ (by positivity)]
  linarith

theorem relHumidity_lt_of_toNat_lt {g h : Raw} (hgh : g.toNat < h.toNat) :
    relHumidity g < relHumidity h := by
  unfold relHumidity
  gcongr

theorem celsius_lt_of_toNat_lt {u t : Raw} (hut : u.toNat < t.toNat) : celsius u < celsius t := by
  rw [celsius_eq_relHumidity, celsius_eq_relHumidity]
  linarith [relHumidity_lt_of_toNat_lt hut]

theorem celsius_mem_range (t : Raw) : -50 ≤ celsius t ∧ celsius t < 150 := by
  rw [celsius_eq_relHumidity]
  constructor
  · linarith [relHumidity_nonneg t]
  · linarith [relHumidity_lt_hundred t]

/-- The largest humidity is 100 * (2^20 - 1) / 2^20 (R215). -/
theorem relHumidity_max : relHumidity 0xFFFFF = 26214375 / 262144 := by
  have hraw : (0xFFFFF : Raw).toNat = 1048575 := rfl
  rw [relHumidity, hraw]
  norm_num

/-- The largest temperature is 200 * (2^20 - 1) / 2^20 - 50 (R215). -/
theorem celsius_max : celsius 0xFFFFF = 19660775 / 131072 := by
  rw [celsius_eq_relHumidity, relHumidity_max]
  norm_num

/-- Settles O58. -/
theorem conversionRanges : Obligations.ConversionRanges :=
  ⟨fun h => ⟨relHumidity_nonneg h, relHumidity_lt_hundred h⟩,
    fun _ _ => relHumidity_lt_of_toNat_lt,
    celsius_mem_range,
    fun _ _ => celsius_lt_of_toNat_lt,
    relHumidity_max, celsius_max⟩

/-! ### The reading of a block -/

theorem reading_of_not_valid {s : State} (hvalid : s.stat.valid = false) :
    reading s = { humidity := 0, temperature := 0 } :=
  if_neg (Bool.eq_false_iff.mp hvalid)

theorem reading_of_valid {s : State} (hvalid : s.stat.valid = true) :
    reading s = { humidity := relHumidity s.rawH, temperature := celsius s.rawT } :=
  if_pos hvalid

/-- The default of 0 °C is 32 °F (R214). -/
theorem fahrenheit_zero : fahrenheit 0 = 32 := by
  norm_num [fahrenheit]

theorem readingFahrenheit_of_not_valid {s : State} (hvalid : s.stat.valid = false) :
    readingFahrenheit s = 32 := by
  rw [readingFahrenheit, reading_of_not_valid hvalid, fahrenheit_zero]

/-- Settles O59, by the two cases of VALID. -/
theorem defaultReadingUntilValid : Obligations.DefaultReadingUntilValid := fun _ =>
  ⟨fun hvalid => ⟨reading_of_not_valid hvalid, readingFahrenheit_of_not_valid hvalid⟩,
    reading_of_valid⟩

end Sys2Proof.Proofs
end

section
/-! Decoder and encoder: each encoding is read back from the instruction it decodes to. -/

namespace Sys2Proof.Proofs

open Sys2Proof.Laws

/-- The encoder is read back by the decoder, row by row (R71, R77, R79). -/
theorem decode_encode (i : Instr) : decode (encode i) = .ok i := by
  cases i with
  | busWrite => exact RoundTrip.busWrite
  | busRead => exact RoundTrip.busRead
  | statusRead => exact RoundTrip.statusRead
  | initializeCmd => exact RoundTrip.initializeCmd
  | softReset => exact RoundTrip.softReset
  | measure c => exact RoundTrip.measure c
  | devInit => exact RoundTrip.devInit
  | devMeasure => exact RoundTrip.devMeasure
  | devSoftReset => exact RoundTrip.devSoftReset
  | devStatus => exact RoundTrip.devStatus
  | busAddressByte a d => exact RoundTrip.busAddressByte a d

/-- R71's words as numbers. -/
theorem word_toNat (c : HostCmd) : c.word.toNat =
    match c with
    | .busWrite => 1
    | .busRead => 2
    | .statusRead => 3
    | .initializeCmd => 4
    | .softReset => 5
    | .measure crcEn => if crcEn then 14 else 6 := by
  cases c with
  | measure crcEn => cases crcEn <;> rfl
  | _ => rfl

theorem encode_toInstr (c : HostCmd) : encode c.toInstr = .word c.word := by
  cases c <;> rfl

/-- A word that decodes is the word of its command: the reserved bits are 0, and the opcode and CRC_EN
give the rest. -/
theorem eq_word_of_decodeWord {v : Word} {c : HostCmd} (h : decodeWord v = .ok c) : v = c.word := by
  apply BitVec.eq_of_toNat_eq
  rw [word_toNat]
  rw [decodeWord_eq_numeric] at h
  split_ifs at h <;> cases h
  case neg =>
    by_cases hcrc : v.toNat / 8 % 2 = 1
    · simp only [hcrc, decide_true, if_true]
      omega
    · simp only [hcrc, decide_false, Bool.false_eq_true, if_false]
      omega
  all_goals dsimp only; omega

/-- Data bytes that are a device command are its bytes (R79). -/
theorem data_eq_encode_of_decodeData {bytes : List Byte} {i : Instr} (h : decodeData bytes = .ok i) :
    .data bytes = encode i := by
  unfold decodeData at h
  split_ifs at h with h1 h2 h3 h4 <;> cases h
  · rw [h1]; rfl
  · rw [h2]; rfl
  · rw [h3]; rfl
  · rw [h4]; rfl

/-- An address byte is put together again from its address and its direction bit (R77). -/
theorem encode_decodeAddress (b : Byte) : encode (decodeAddress b) = .address b := by
  have hbyte : ∀ b : Byte, addressByte (b.extractLsb' 1 7) (if b.getLsbD 0 then .read else .write) = b := by
    decide
  exact congrArg Code.address (hbyte b)

theorem eq_encode_of_decode {c : Code} {i : Instr} (h : decode c = .ok i) : c = encode i := by
  cases c with
  | word w =>
    simp only [decode, Except.map] at h
    split at h <;> cases h
    next c hc => rw [encode_toInstr, ← eq_word_of_decodeWord hc]
  | data bytes => exact data_eq_encode_of_decodeData h
  | address b => cases h; exact (encode_decodeAddress b).symm

/-- Settles O1: the encoder is read back row by row, and each form of an encoding that decodes is the
encoding of what it decodes to. -/
theorem decodeEncodeAgree : Obligations.DecodeEncodeAgree := by
  intro c i
  constructor
  · exact eq_encode_of_decode
  · rintro rfl
    exact decode_encode i

/-- Settles O4: each listed encoding is the encoder's for its row. -/
theorem listedEncodingsDecode : Obligations.ListedEncodingsDecode :=
  ⟨decode_encode .busWrite, decode_encode .busRead, decode_encode .initializeCmd, decode_encode (.measure true),
    decode_encode .devInit, decode_encode .devStatus, decode_encode (.busAddressByte 0x38 .write),
    decode_encode (.busAddressByte 0x38 .read)⟩

end Sys2Proof.Proofs
end

section
/-! One step of the machine: the one move of a running block at each sequencer position, and who else
can move. -/

namespace Sys2Proof.Proofs

open Sys2Proof.Machine Sys2Proof.Laws

/-! ### The move of a running block -/

/-- Data byte `i` of a write transaction (R72, R79). -/
def dataByte (s : State) : Xfer → Nat → Byte
  | .hostWrite, i => hostByte s i
  | .statusWrite _, i => byteAt statusBytes i
  | .initWrite, i => byteAt initBytes i
  | .resetWrite, i => byteAt softResetBytes i
  | .trigger, i => byteAt measureBytes i
  | _, _ => 0

/-- Where the command goes with a Status Byte (R168, R169). -/
def onStatus (s : State) (again : Bool) : Byte → Seq :=
  if s.cur = some .initializeCmd then afterInitStatus again else afterStatus

/-- Where a transaction that succeeded leads (R103, R109, R165, R169, R174, R177). -/
def afterXfer (s : State) : Xfer → Seq
  | .hostWrite => .final .none
  | .hostRead => .final .none
  | .statusWrite again => .start (.statusRead again)
  | .statusRead again => onStatus s again s.rx[0]
  | .initWrite => .settle .init
  | .resetWrite => .settle .softReset
  | .trigger => .settle .measure
  | .frameRead _ => .evaluate

/-- Whether a failed transaction is a status read's, so that STATUS_FAIL_POLICY decides (R167). -/
def isStatusXfer : Xfer → Option Bool
  | .statusWrite again => some again
  | .statusRead again => some again
  | _ => none

/-- The STOP of a failed transaction (R106, R163, R167). -/
def closeFailed (x : Xfer) (s : State) : State :=
  match isStatusXfer x with
  | some again => absorbFailure x (onStatus s again) s
  | none => closeXfer x false (.final .transport) s

/-- Where a settle wait leads (R169, R174, R177). -/
def afterSettle (s : State) : Settle → Seq
  | .init => .start (.statusWrite true)
  | .softReset => .final .none
  | .measure => .start (.frameRead (s.cur == some (.measure true)))

/-- The FSM a command's final step leaves (R163, R168, R169, R174). -/
def finalFsm (e : ErrCode) (s : State) : Fsm :=
  match s.cur with
  | some .initializeCmd => initFsm e s
  | some .softReset => .uninitialized
  | some (.measure _) => teFsm s.cfg .calibrated
  | _ => s.stat.fsm

/-- What a running block does at each sequencer position, whichever row of the table owns the step. -/
def blockMove (s : State) : State :=
  match s.seq with
  | .idle => s
  | .start x => if x = .trigger then beginMeasure s else openXfer x s
  | .address x => transmit x (addressByte s.devAddr x.dir) (dataOrStop x 0 (xferLen s x)) s
  | .data x i =>
    match x.dir with
    | .write => sendByte x (dataByte s x i) i s
    | .read => receiveByte x i s
  | .stop x ok => if ok then closeXfer x true (afterXfer s x) s else closeFailed x s
  | .settle w => beginWait w (afterSettle s w) s
  | .ticking w => tick (afterSettle s w) s
  | .evaluate => evaluateFrame (s.cur == some (.measure true)) s
  | .final e => finish e (setFsm (finalFsm e s) s)

/-! ### The rows are moves -/

/-- The next step of a running command (R162). -/
def advance : HostCmd → State → Host.Outcome State Fault Refusal
  | .busWrite => advanceBusWrite
  | .busRead => advanceBusRead
  | .statusRead => advanceStatusRead
  | .initializeCmd => advanceInitialize
  | .softReset => advanceSoftReset
  | .measure crcEn => advanceMeasure crcEn

theorem exec_toInstr (c : HostCmd) (s : State) : exec c.toInstr s = asCommand c (advance c) s := by
  cases c <;> rfl

theorem exec_toInstr_idle {c : HostCmd} {s : State} (hidle : s.stat.busy = false) :
    exec c.toInstr s = .next (issue c s) :=
  (exec_toInstr c s).trans (asCommand_idle hidle)

theorem exec_toInstr_running {c : HostCmd} {s : State} (hbusy : s.stat.busy = true) (hcur : s.cur = some c) :
    exec c.toInstr s = advance c s :=
  (exec_toInstr c s).trans (asCommand_running hbusy hcur)

@[simp] theorem setFsm_self (s : State) : setFsm s.stat.fsm s = s := rfl

/-- CRC_EN of the MEASURE that runs. -/
theorem crcEn_eq_cur {s : State} {c : Bool} (hcur : s.cur = some (.measure c)) :
    (s.cur == some (.measure true)) = c := by
  rw [hcur]
  cases c <;> rfl

/-- A running command's step is the move of its position. -/
theorem advance_eq_blockMove {c : HostCmd} {s t : State} (hcur : s.cur = some c)
    (h : advance c s = .next t) : t = blockMove s := by
  cases c with
  | busWrite =>
    simp only [advance, advanceBusWrite] at h
    split at h <;> cases h
    next hseq => simp [blockMove, hseq]
    next hseq => simp [blockMove, hseq, dataByte, Xfer.dir]
    next ok hseq => cases ok <;> simp [blockMove, hseq, afterXfer, closeFailed, isStatusXfer, transferResult]
    next hseq => simp [blockMove, hseq, finalFsm, hcur]
  | busRead =>
    simp only [advance, advanceBusRead] at h
    split at h <;> cases h
    next hseq => simp [blockMove, hseq]
    next hseq => simp [blockMove, hseq, Xfer.dir]
    next ok hseq => cases ok <;> simp [blockMove, hseq, afterXfer, closeFailed, isStatusXfer, transferResult]
    next hseq => simp [blockMove, hseq, finalFsm, hcur]
  | statusRead =>
    simp only [advance, advanceStatusRead] at h
    split at h <;> cases h
    next hseq => simp [blockMove, hseq]
    next ok hseq =>
      cases ok <;> simp [blockMove, hseq, afterXfer, closeFailed, isStatusXfer, onStatus, hcur, closeStatusWrite]
    next hseq => simp [blockMove, hseq]
    next hseq => simp [blockMove, hseq, Xfer.dir]
    next ok hseq =>
      cases ok <;> simp [blockMove, hseq, afterXfer, closeFailed, isStatusXfer, onStatus, hcur, closeStatusRead]
    next hseq => simp [blockMove, hseq, finalFsm, hcur]
  | initializeCmd =>
    simp only [advance, advanceInitialize] at h
    split at h <;> cases h
    next hseq => simp [blockMove, hseq]
    next ok hseq =>
      cases ok <;> simp [blockMove, hseq, afterXfer, closeFailed, isStatusXfer, onStatus, hcur, closeStatusWrite]
    next hseq => simp [blockMove, hseq]
    next hseq => simp [blockMove, hseq, Xfer.dir]
    next ok hseq =>
      cases ok <;> simp [blockMove, hseq, afterXfer, closeFailed, isStatusXfer, onStatus, hcur, closeStatusRead]
    next hseq => simp [blockMove, hseq]
    next ok hseq => cases ok <;> simp [blockMove, hseq, afterXfer, closeFailed, isStatusXfer]
    next hseq => simp [blockMove, hseq, afterSettle]
    next hseq => simp [blockMove, hseq, afterSettle]
    next hseq => simp [blockMove, hseq, finalFsm, hcur]
  | softReset =>
    simp only [advance, advanceSoftReset] at h
    split at h <;> cases h
    next hseq => simp [blockMove, hseq]
    next ok hseq => cases ok <;> simp [blockMove, hseq, afterXfer, closeFailed, isStatusXfer]
    next hseq => simp [blockMove, hseq, afterSettle]
    next hseq => simp [blockMove, hseq, afterSettle]
    next hseq => simp [blockMove, hseq, finalFsm, hcur]
  | measure crcEn =>
    simp only [advance, advanceMeasure] at h
    split at h <;> cases h
    next hseq => simp [blockMove, hseq]
    next ok hseq => cases ok <;> simp [blockMove, hseq, afterXfer, closeFailed, isStatusXfer]
    next hseq => simp [blockMove, hseq, afterSettle, crcEn_eq_cur hcur]
    next hseq => simp [blockMove, hseq, afterSettle, crcEn_eq_cur hcur]
    next hseq => simp [blockMove, hseq]
    next hseq => simp [blockMove, hseq, Xfer.dir]
    next ok hseq => cases ok <;> simp [blockMove, hseq, afterXfer, closeFailed, isStatusXfer]
    next hseq => simp [blockMove, hseq, crcEn_eq_cur hcur]
    next hseq => simp [blockMove, hseq, finalFsm, hcur]

theorem exec_busAddressByte {s : State} {x : Xfer} (a : BusAddr) (hseq : s.seq = .address x) :
    exec (.busAddressByte a x.dir) s =
      .next (transmit x (addressByte a x.dir) (dataOrStop x 0 (xferLen s x)) s) := by
  simp only [exec, execBusAddressByte, hseq, if_true]

theorem exec_devStatus {s : State} {again : Bool} {i : Nat} (hseq : s.seq = .data (.statusWrite again) i) :
    exec .devStatus s = .next (sendByte (.statusWrite again) (byteAt statusBytes i) i s) := by
  simp only [exec, execDevStatus, hseq]

theorem exec_devInit {s : State} {i : Nat} (hseq : s.seq = .data .initWrite i) :
    exec .devInit s = .next (sendByte .initWrite (byteAt initBytes i) i s) := by
  simp only [exec, execDevInit, hseq]

theorem exec_devSoftReset {s : State} {i : Nat} (hseq : s.seq = .data .resetWrite i) :
    exec .devSoftReset s = .next (sendByte .resetWrite (byteAt softResetBytes i) i s) := by
  simp only [exec, execDevSoftReset, hseq]

theorem exec_devMeasure {s : State} {i : Nat} (hseq : s.seq = .data .trigger i) :
    exec .devMeasure s = .next (sendByte .trigger (byteAt measureBytes i) i s) := by
  simp only [exec, execDevMeasure, hseq]

/-- The row at a busy block's position makes the position's move. -/
theorem exec_rowAt_eq_blockMove {i : Instr} {s t : State} (hbusy : s.stat.busy = true)
    (hrow : rowAt s = some i) (h : exec i s = .next t) : t = blockMove s := by
  unfold rowAt at hrow
  split at hrow
  next hseq =>
    cases hrow
    cases (exec_busAddressByte s.devAddr hseq).symm.trans h
    simp [blockMove, hseq]
  next hseq =>
    cases hrow
    cases (exec_devStatus hseq).symm.trans h
    simp [blockMove, hseq, Xfer.dir, dataByte]
  next hseq =>
    cases hrow
    cases (exec_devInit hseq).symm.trans h
    simp [blockMove, hseq, Xfer.dir, dataByte]
  next hseq =>
    cases hrow
    cases (exec_devSoftReset hseq).symm.trans h
    simp [blockMove, hseq, Xfer.dir, dataByte]
  next hseq =>
    cases hrow
    cases (exec_devMeasure hseq).symm.trans h
    simp [blockMove, hseq, Xfer.dir, dataByte]
  next =>
    obtain ⟨c, hcur, rfl⟩ := Option.map_eq_some_iff.mp hrow
    exact advance_eq_blockMove hcur ((exec_toInstr_running hbusy hcur).symm.trans h)

/-! ### Every position of a command has its row -/

/-- At a position of its own that the command itself owns, its step answers. -/
theorem advance_answers {c : HostCmd} {s : State} (hfits : fits c s.seq = true)
    (haddr : ∀ x, s.seq ≠ .address x) (hdata : ∀ x i, s.seq = .data x i → x = .hostWrite ∨ x.dir = .read) :
    ∃ t, advance c s = .next t := by
  cases c <;>
    simp only [advance, advanceBusWrite, advanceBusRead, advanceStatusRead, advanceInitialize, advanceSoftReset,
      advanceMeasure] <;>
    generalize s.seq = q at hfits haddr hdata ⊢
  all_goals
    cases q with
    | idle => simp [fits] at hfits
    | address x => exact absurd rfl (haddr x)
    | start x => cases x <;> simp_all [fits, ownsXfer]
    | data x i => cases x <;> simp_all [fits, ownsXfer, Xfer.dir]
    | stop x ok => cases x <;> simp_all [fits, ownsXfer]
    | settle w => cases w <;> simp_all [fits, ownsSettle]
    | ticking w => cases w <;> simp_all [fits, ownsSettle]
    | evaluate => simp_all [fits]
    | final e => cases e <;> simp_all [fits, ownsFinal]

/-- A running command makes the move of its position. -/
theorem exec_rowAt_running {c : HostCmd} {s : State} (hbusy : s.stat.busy = true) (hcur : s.cur = some c)
    (hfits : fits c s.seq = true) : ∃ i, rowAt s = some i ∧ exec i s = .next (blockMove s) := by
  have answers : ∃ i t, rowAt s = some i ∧ exec i s = .next t := by
    by_cases haddr : ∃ x, s.seq = .address x
    · obtain ⟨x, hseq⟩ := haddr
      exact ⟨_, _, rowAt_address hseq, exec_busAddressByte s.devAddr hseq⟩
    by_cases hdata : ∀ x i, s.seq = .data x i → x = .hostWrite ∨ x.dir = .read
    · have haddr := not_exists.mp haddr
      obtain ⟨t, ht⟩ := advance_answers hfits haddr hdata
      exact ⟨_, t, rowAt_command hcur haddr hdata, (exec_toInstr_running hbusy hcur).trans ht⟩
    · simp only [not_forall, not_or] at hdata
      obtain ⟨x, i, hseq, hx, hdir⟩ := hdata
      cases x with
      | hostWrite => exact absurd rfl hx
      | hostRead | statusRead _ | frameRead _ => exact absurd rfl hdir
      | statusWrite again => exact ⟨.devStatus, _, by simp only [rowAt, hseq], exec_devStatus hseq⟩
      | initWrite => exact ⟨.devInit, _, by simp only [rowAt, hseq], exec_devInit hseq⟩
      | resetWrite => exact ⟨.devSoftReset, _, by simp only [rowAt, hseq], exec_devSoftReset hseq⟩
      | trigger => exact ⟨.devMeasure, _, by simp only [rowAt, hseq], exec_devMeasure hseq⟩
  obtain ⟨i, t, hrow, hexec⟩ := answers
  exact ⟨i, hrow, hexec.trans (congrArg _ (exec_rowAt_eq_blockMove hbusy hrow hexec))⟩

/-! ### Who moves -/

/-- Everything a step can be: a move of the host or the platform, or a move of the block; `e` is the world
outside as the move leaves or finds it. -/
inductive Move (s : State) : State → Prop
  /-- A host read, or an idle block's wait. -/
  | observes (e : Env) : Move s { s with env := e }
  /-- A refused host access. -/
  | refuses (r : RefuseReason) (e : Env) : Move s (refuse r { s with env := e })
  /-- A legal host write of a register other than CMD. -/
  | stores (off : Offset) (v : Word) (e : Env) (hidle : s.stat.busy = false) :
    Move s (storeAt off v { s with env := e })
  /-- Block reset. -/
  | resets (e : Env) (hpending : resetPending s = true) : Move s (blockReset { s with env := e })
  /-- A legal word written to CMD. -/
  | issues (c : HostCmd) (e : Env) (hidle : s.stat.busy = false) : Move s (issue c { s with env := e })
  /-- A step of a running command. -/
  | runs (e : Env) (hbusy : s.stat.busy = true) : Move s (blockMove { s with env := e })

theorem readMapped_observes (r : RegName) (off : Offset) (s : State) : ∃ e, readMapped r off s = { s with env := e } := by
  unfold readMapped
  split <;> exact ⟨_, rfl⟩

theorem pollStat_observes (gap : Nat) (s : State) : ∃ e, pollStat gap s = { s with env := e } := by
  simp only [pollStat, readMapped_stat]
  split <;> exact ⟨_, rfl⟩

/-- A write that nothing refuses meets an idle block. -/
theorem idle_of_writeRefusal_none {size : Nat} {off : Offset} {s : State}
    (h : writeRefusal size off s = none) : s.stat.busy = false := by
  unfold writeRefusal at h
  split at h
  · cases h
  · split_ifs at h with _ hbusy
    exact Bool.eq_false_iff.mpr hbusy

theorem hostTurn_complete_move {a : HostAction} {rest : List (Nat × HostAction)} {s t : State}
    (hin : s.env.inputs = (0, a) :: rest) (h : hostTurn a (setInputs rest s) = .complete t) : Move s t := by
  cases a with
  | read size off =>
    cases h
    unfold hostRead
    split
    · exact .refuses _ _
    · next r _ =>
      obtain ⟨e, he⟩ := readMapped_observes r off (setInputs rest s)
      exact he ▸ .observes e
  | write size off v =>
    simp only [hostTurn, hostWrite] at h
    split at h
    · cases h; exact .refuses _ _
    · next hlegal =>
      split at h
      · split at h <;> cases h
        exact .refuses _ _
      · cases h; exact .stores off v _ (idle_of_writeRefusal_none hlegal)
  | poll gap =>
    cases h
    obtain ⟨e, he⟩ := pollStat_observes gap (setInputs rest s)
    exact he ▸ .observes e
  | blockReset =>
    cases h
    exact .resets _ (by simp only [resetPending, hin])

theorem fetch_complete_move {s t : State} (h : fetch s = .complete t) : Move s t := by
  unfold fetch at h
  split at h
  · rw [blockTurn_complete h]; exact .observes s.env
  · next hin => exact hostTurn_complete_move hin h
  · rw [blockTurn_complete h]; exact .observes _

theorem hostTurn_run_issues {a : HostAction} {s u : State} {i : Instr} (h : hostTurn a s = .run i u) :
    s.stat.busy = false ∧ ∃ c : HostCmd, i = c.toInstr := by
  cases a with
  | write size off v =>
    simp only [hostTurn, hostWrite] at h
    split at h
    · cases h
    · next hlegal =>
      split at h
      · split at h <;> cases h
        exact ⟨idle_of_writeRefusal_none hlegal, _, rfl⟩
      · cases h
  | read size off => cases h
  | poll gap => cases h
  | blockReset => cases h

theorem blockTurn_run_row {s u : State} {i : Instr} (h : blockTurn s = .run i u) :
    s.stat.busy = true ∧ rowAt s = some i := by
  unfold blockTurn at h
  split at h
  · cases h
  · next hbusy =>
    split at h <;> cases h
    next hrow => exact ⟨by simpa using hbusy, hrow⟩

/-- What runs is a command word on an idle block, or the row a busy block stands at. -/
theorem fetch_run_cases {s u : State} {i : Instr} (h : fetch s = .run i u) :
    (u.stat.busy = false ∧ ∃ c : HostCmd, i = c.toInstr) ∨ (u.stat.busy = true ∧ rowAt u = some i) := by
  unfold fetch at h
  split at h
  · rw [blockTurn_run h]; exact .inr (blockTurn_run_row h)
  · rw [hostTurn_run h]; exact .inl (hostTurn_run_issues h)
  · rw [blockTurn_run h]; exact .inr (blockTurn_run_row h)

/-- A step is one of the moves. -/
theorem move_of_step {s t : State} (h : step s = .next t) : Move s t := by
  rcases step_next h with hdone | ⟨i, u, hrun, hexec⟩
  · exact fetch_complete_move hdone
  · obtain ⟨l, rfl⟩ := fetch_run hrun
    rcases fetch_run_cases hrun with ⟨hidle, c, rfl⟩ | ⟨hbusy, hrow⟩
    · rw [exec_toInstr_idle hidle] at hexec
      cases hexec
      exact .issues c _ hidle
    · rw [exec_rowAt_eq_blockMove hbusy hrow hexec]
      exact .runs _ hbusy

/-! ### The step of an undisturbed running block -/

/-- `c` runs and the host makes no access. -/
def Running (c : HostCmd) (s : State) : Prop := Undisturbed s ∧ s.stat.busy = true ∧ s.cur = some c

/-- An undisturbed running command makes the move of its position. -/
theorem Running.step {c : HostCmd} {s : State} (hrun : Running c s) (hfits : fits c s.seq = true) :
    step s = .next (blockMove s) := by
  obtain ⟨hundisturbed, hbusy, hcur⟩ := hrun
  obtain ⟨i, hrow, hexec⟩ := exec_rowAt_running hbusy hcur hfits
  exact (step_undisturbed hundisturbed hbusy hrow).trans hexec

/-! ### What a move of the block leaves alone -/

section
variable (s : State)

/-- The STOP of a failed transaction is the policy's, or leads to the transport-error exit. -/
theorem closeFailed_cases (x : Xfer) : (∃ again, isStatusXfer x = some again ∧
      closeFailed x s = absorbFailure x (onStatus s again) s) ∨
    (isStatusXfer x = none ∧ closeFailed x s = closeXfer x false (.final .transport) s) := by
  unfold closeFailed
  split
  · next again h => exact .inl ⟨again, h, rfl⟩
  · next h => exact .inr ⟨h, rfl⟩

/-- The operands, the start state, the mark and the parameters are no move's. -/
theorem blockMove_kept : (blockMove s).devAddr = s.devAddr ∧ (blockMove s).len = s.len ∧
    (blockMove s).tx = s.tx ∧ (blockMove s).preFsm = s.preFsm ∧ (blockMove s).refused = s.refused ∧
    (blockMove s).cfg = s.cfg := by
  unfold blockMove
  split
  case h_2 => split <;> simp
  case h_4 => split <;> simp
  case h_5 x ok _ =>
    split
    · simp
    · rcases closeFailed_cases s x with ⟨_, -, h⟩ | ⟨-, h⟩ <;> simp [h]
  all_goals simp

end

/-! ### What a move does to the trace -/

/-- `t` has the trace of `s` and at most one event more (R162). -/
def AtMostOneEvent (s t : State) : Prop := t.trace = s.trace ∨ ∃ e, t.trace = s.trace ++ [e]

theorem AtMostOneEvent.of_trace_append {s t : State} {e : BusEvent} (h : t.trace = s.trace ++ [e]) :
    AtMostOneEvent s t := .inr ⟨e, h⟩

theorem transmit_atMostOneEvent (x : Xfer) (b : Byte) (q : Seq) (s : State) :
    AtMostOneEvent s (transmit x b q s) := by
  rcases transmit_cases x b q s with ⟨-, h, -⟩ | ⟨-, h, -⟩ | ⟨-, h, -⟩ | ⟨-, h, -⟩ | ⟨-, h, -⟩
  · exact .of_trace_append h
  · exact .of_trace_append h
  · exact .of_trace_append h
  · exact .of_trace_append h
  · exact .inl h

theorem receiveByte_atMostOneEvent (x : Xfer) (i : Nat) (s : State) : AtMostOneEvent s (receiveByte x i s) := by
  rcases receiveByte_cases x i s with ⟨d, -, h, -⟩ | ⟨-, h, -⟩ | ⟨-, h, -⟩ | ⟨-, h, -⟩
  · exact .of_trace_append h
  · exact .of_trace_append h
  · exact .of_trace_append h
  · exact .inl h

theorem closeFailed_trace (x : Xfer) (s : State) : (closeFailed x s).trace = s.trace ++ [.stop] := by
  rcases closeFailed_cases s x with ⟨_, -, h⟩ | ⟨-, h⟩ <;> simp [h]

theorem beginMeasure_atMostOneEvent (s : State) : AtMostOneEvent s (beginMeasure s) := by
  unfold beginMeasure
  split
  · exact .inl rfl
  · exact .of_trace_append rfl

theorem blockMove_atMostOneEvent (s : State) : AtMostOneEvent s (blockMove s) := by
  unfold blockMove
  split
  case h_1 => exact .inl rfl
  case h_2 =>
    split
    · exact beginMeasure_atMostOneEvent s
    · exact .of_trace_append rfl
  case h_3 => exact transmit_atMostOneEvent _ _ _ s
  case h_4 =>
    split
    · exact transmit_atMostOneEvent _ _ _ s
    · exact receiveByte_atMostOneEvent _ _ s
  case h_5 =>
    split
    · exact .of_trace_append (closeXfer_trace _ _ _ s)
    · exact .of_trace_append (closeFailed_trace _ s)
  case h_6 => exact .of_trace_append (beginWait_trace _ _ s)
  case h_7 => exact .inl rfl
  case h_8 => exact .inl (evaluateFrame_trace _ s)
  case h_9 => exact .inl rfl

/-! ### The statements about every step -/

/-- Settles O50: the host's stores meet an idle block, and a running block has its operands kept. -/
theorem operandsFixedDuringACommand : Obligations.OperandsFixedDuringACommand := by
  intro s t hstep hreset hbusy
  cases move_of_step hstep with
  | observes e => exact ⟨rfl, rfl, rfl⟩
  | refuses r e => exact ⟨rfl, rfl, rfl⟩
  | stores off v e hidle => simp [hidle] at hbusy
  | resets e hpending => simp [hpending] at hreset
  | issues c e hidle => simp [hidle] at hbusy
  | runs e _ =>
    obtain ⟨haddr, hlen, htx, -⟩ := blockMove_kept { s with env := e }
    exact ⟨haddr, hlen, htx⟩

/-- Settles O51: only a move of the block reaches the trace. -/
theorem oneBusEventPerStep : Obligations.OneBusEventPerStep := by
  intro s t hstep hreset
  cases move_of_step hstep with
  | observes e => exact .inl rfl
  | refuses r e => exact .inl rfl
  | stores off v e _ => exact .inl (storeAt_trace off v _)
  | resets e hpending => simp [hpending] at hreset
  | issues c e _ => exact .inl (issue_trace c _)
  | runs e _ => exact blockMove_atMostOneEvent { s with env := e }

theorem issue_refused {c : HostCmd} {s : State} {m : RefuseReason} (h : s.refused = some m) :
    (issue c s).refused = some m := by
  unfold issue
  split
  · simp [h]
  · exact h

/-- No step drops the mark or gives it another reason. -/
theorem step_refused {s t : State} {m : RefuseReason} (h : s.refused = some m) (hstep : step s = .next t) :
    t.refused = some m := by
  cases move_of_step hstep with
  | observes e => exact h
  | refuses r e => simp [h]
  | stores off v e _ => exact (storeAt_refused off v _).trans h
  | resets e _ => exact h
  | issues c e _ => exact issue_refused h
  | runs e _ =>
    obtain ⟨-, -, -, -, hrefused, -⟩ := blockMove_kept { s with env := e }
    exact hrefused.trans h

/-- Settles O52: the mark is kept by every step. -/
theorem refusedMarkStays : Obligations.RefusedMarkStays := by
  intro s t m hmark hreach
  exact reaches_induction (P := fun s => s.refused = some m) (fun _ _ => step_refused) hmark hreach

end Sys2Proof.Proofs
end

section
/-! The statements about the host register space: which access is refused, and what a legal one does. -/

namespace Sys2Proof.Proofs

open Sys2Proof.Machine Sys2Proof.Laws

/-! ### The step of a host access -/

theorem fetch_host {s : State} {a : HostAction} {rest : List (Nat × HostAction)}
    (hin : s.env.inputs = (0, a) :: rest) : fetch s = hostTurn a (setInputs rest s) := by
  simp only [fetch, hin]

theorem step_of_complete {s t : State} (h : fetch s = .complete t) : step s = .next t := by
  simp only [step, h]

theorem step_of_run {s u : State} {i : Instr} (h : fetch s = .run i u) : step s = exec i u := by
  simp only [step, h]

/-! ### The register map -/

theorem regAt_regOffset (r : RegName) : regAt (regOffset r) = some r := by
  cases r <;> rfl

theorem target_regOffset (r : RegName) : target 4 (regOffset r) = some r :=
  (if_pos rfl).trans (regAt_regOffset r)

/-- No register stands at an offset that is no multiple of 4, nor above RAW_T (R51, R52). -/
theorem regAt_eq_none {off : Offset} (h : off.toNat % 4 ≠ 0 ∨ 0x30 ≤ off.toNat) : regAt off = none := by
  unfold regAt
  split
  case h_13 => rfl
  all_goals exfalso; omega

theorem target_eq_none {size : Nat} {off : Offset} (h : size ≠ 4 ∨ off.toNat % 4 ≠ 0 ∨ 0x30 ≤ off.toNat) :
    target size off = none := by
  unfold target
  split
  · next hsize => exact regAt_eq_none (h.resolve_left (not_not.mpr hsize))
  · rfl

/-- A write of a mapped register is refused if it is read-only or the block is busy (R54, R55). -/
theorem writeRefusal_regOffset (r : RegName) (s : State) :
    writeRefusal 4 (regOffset r) s =
      if r.writable = false then some .readOnly else if s.stat.busy then some .busy else none := by
  simp only [writeRefusal, target_regOffset]

theorem writeRefusal_of_no_target {size : Nat} {off : Offset} (h : target size off = none) (s : State) :
    writeRefusal size off s = some .unmappedOrMisaligned := by
  simp only [writeRefusal, h]

theorem hostWrite_refused {size : Nat} {off : Offset} {v : Word} {s : State} {r : RefuseReason}
    (h : writeRefusal size off s = some r) : hostWrite size off v s = .complete (refuse r s) := by
  simp only [hostWrite, h]

theorem hostRead_refused {size : Nat} {off : Offset} {s : State} (h : target size off = none) :
    hostRead size off s = refuse .unmappedOrMisaligned s := by
  simp only [hostRead, h]

theorem hostRead_regOffset (r : RegName) (s : State) :
    hostRead 4 (regOffset r) s = readMapped r (regOffset r) s := by
  simp only [hostRead, target_regOffset]

/-! ### Refused accesses -/

theorem step_read_refused {s : State} {size : Nat} {off : Offset} {rest : List (Nat × HostAction)}
    (hin : s.env.inputs = (0, .read size off) :: rest) (htarget : target size off = none) :
    step s = .next (refuse .unmappedOrMisaligned (setInputs rest s)) :=
  step_of_complete ((fetch_host hin).trans (congrArg Fetch.complete (hostRead_refused htarget)))

theorem step_write_refused {s : State} {size : Nat} {off : Offset} {v : Word} {r : RefuseReason}
    {rest : List (Nat × HostAction)} (hin : s.env.inputs = (0, .write size off v) :: rest)
    (hrefused : writeRefusal size off (setInputs rest s) = some r) :
    step s = .next (refuse r (setInputs rest s)) :=
  step_of_complete ((fetch_host hin).trans (hostWrite_refused hrefused))

/-- Settles O16: nothing is at the offset, or what is there is read-only. -/
theorem illegalAccessRefused : Obligations.IllegalAccessRefused := by
  intro s a rest hin hillegal
  rcases hillegal with ⟨size, off, hoff, rfl | ⟨v, rfl⟩⟩ | ⟨r, v, hr, rfl⟩
  · exact ⟨_, step_read_refused hin (target_eq_none hoff)⟩
  · exact ⟨_, step_write_refused hin (writeRefusal_of_no_target (target_eq_none hoff) _)⟩
  · have hreadOnly : r.writable = false := by rcases hr with rfl | rfl | rfl | rfl | rfl | rfl | rfl <;> rfl
    exact ⟨_, step_write_refused hin ((writeRefusal_regOffset r _).trans (if_pos hreadOnly))⟩

/-- Settles O15: a busy block refuses a write for its being busy, and answers a read. -/
theorem busyBlockRefusesWrites : Obligations.BusyBlockRefusesWrites := by
  intro s rest hbusy
  refine ⟨fun r v hr hin => ?write, fun r hin => ?read⟩
  case write =>
    have hwritable : r.writable ≠ false := by rcases hr with rfl | rfl | rfl | rfl | rfl <;> decide
    exact step_write_refused hin
      ((writeRefusal_regOffset r _).trans ((if_neg hwritable).trans (if_pos hbusy)))
  case read =>
    exact ⟨_, step_of_complete (fetch_host hin), by rw [hostRead_regOffset, readMapped_refused]; rfl⟩

/-! ### Legal reads -/

/-- Settles O14: RXD0 and RXD1 of a busy block are drawn, every other register is read. -/
theorem hostReadReturnsAndChangesNothing : Obligations.HostReadReturnsAndChangesNothing := by
  intro s r rest hin
  have hstep : step s = .next (readMapped r (regOffset r) (setInputs rest s)) :=
    step_of_complete ((fetch_host hin).trans (congrArg Fetch.complete (hostRead_regOffset r _)))
  by_cases hdraw : isRxd r ∧ (setInputs rest s).stat.busy
  · rw [readMapped, if_pos hdraw] at hstep
    refine ⟨_, _, hstep, fun h => ?_, fun h => ?_⟩
    · obtain ⟨hrxd, hbusy⟩ := hdraw
      have hbusy : s.stat.busy = true := hbusy
      cases r <;> simp [isRxd, hbusy] at hrxd h
    · subst h
      simp [isRxd] at hdraw
  · rw [readMapped, if_neg hdraw] at hstep
    refine ⟨_, _, hstep, fun _ => ⟨?_, rfl⟩, fun h => ?_⟩
    · cases r <;> rfl
    · subst h
      rfl

/-! ### Legal stores -/

/-- The low `n` bits of a word are its masked value. -/
theorem setWidth_extractLsb'_eq_and (v : Word) {n : Nat} (hn : n ≤ 32) :
    (v.extractLsb' 0 n).setWidth 32 = v &&& BitVec.ofNat 32 (2 ^ n - 1) := by
  have hmask : 2 ^ n - 1 < 2 ^ 32 := by
    have hpow : 2 ^ n ≤ 2 ^ 32 := Nat.pow_le_pow_right (by decide) hn
    omega
  apply BitVec.eq_of_toNat_eq
  rw [BitVec.toNat_setWidth_of_le hn, BitVec.extractLsb'_toNat, Nat.shiftRight_zero, BitVec.toNat_and,
    BitVec.toNat_ofNat, Nat.mod_eq_of_lt hmask, Nat.and_two_pow_sub_one_eq_mod]

/-- A word is its four lanes (R63). -/
theorem packWord_lanes (v : Word) : packWord (lane v 0) (lane v 1) (lane v 2) (lane v 3) = v := by
  unfold packWord lane
  rw [BitVec.extractLsb'_append_extractLsb'_eq_extractLsb' (start₂ := 24) (start₁ := 16) rfl,
    BitVec.extractLsb'_append_extractLsb'_eq_extractLsb' (start₂ := 16) (start₁ := 8) rfl]
  exact BitVec.extractLsb'_append_extractLsb'

/-- The three low lanes alone are the word without its top byte (R35). -/
theorem packWord_lowLanes (v : Word) :
    packWord (lane v 0) (lane v 1) (lane v 2) 0 = v &&& 0x00FFFFFF := by
  have kept (i : Nat) (hmask : lane 0x00FFFFFF i = BitVec.allOnes 8) : lane (v &&& 0x00FFFFFF) i = lane v i := by
    rw [lane, BitVec.extractLsb'_and, ← lane, ← lane, hmask, BitVec.and_allOnes]
  have cleared : lane (v &&& 0x00FFFFFF) 3 = 0 := by
    rw [lane, BitVec.extractLsb'_and]
    exact BitVec.and_zero
  rw [← packWord_lanes (v &&& 0x00FFFFFF), kept 0 rfl, kept 1 rfl, kept 2 rfl, cleared]

theorem lowWord_writeLow (b : Vector Byte 7) (v : Word) : lowWord (writeLow b v) = v := packWord_lanes v

theorem highWord_writeHigh (b : Vector Byte 7) (v : Word) : highWord (writeHigh b v) = v &&& 0x00FFFFFF :=
  packWord_lowLanes v

theorem storeAt_regOffset (r : RegName) (v : Word) (s : State) :
    storeAt (regOffset r) v s = storeReg r v s := by
  simp only [storeAt, regAt_regOffset]

/-- A legal write of a register other than CMD stores (R56). -/
theorem step_store {s : State} {r : RegName} {v : Word} {rest : List (Nat × HostAction)}
    (hin : s.env.inputs = (0, .write 4 (regOffset r) v) :: rest) (hidle : s.stat.busy = false)
    (hwritable : r.writable = true) (hcmd : regOffset r ≠ regOffset .cmd) :
    step s = .next (storeReg r v (setInputs rest s)) := by
  have hlegal : writeRefusal 4 (regOffset r) (setInputs rest s) = none := by
    rw [writeRefusal_regOffset, hwritable, setInputs_stat, hidle]
    rfl
  refine step_of_complete ((fetch_host hin).trans ?_)
  simp only [hostTurn, hostWrite, hlegal, hcmd, if_false, storeAt_regOffset]

/-- A store reaches no field of another register. -/
theorem readReg_storeReg_other {r q : RegName} (hq : q ≠ r) (v : Word) (s : State) :
    readReg q (storeReg r v s) = readReg q s := by
  cases r with
  | addr =>
    cases q with
    | addr => exact absurd rfl hq
    | _ => rfl
  | len =>
    cases q with
    | len => exact absurd rfl hq
    | _ => rfl
  | txd0 =>
    cases q with
    | txd0 => exact absurd rfl hq
    | _ => rfl
  | txd1 =>
    cases q with
    | txd1 => exact absurd rfl hq
    | _ => rfl
  | _ => rfl

/-- Settles O13: each of the four registers reads back as the fields of the value. -/
theorem hostWriteStoresFields : Obligations.HostWriteStoresFields := by
  intro s v r mask rest hr hin hidle
  have hwritable : r.writable = true ∧ regOffset r ≠ regOffset .cmd := by
    rcases hr with ⟨rfl, -⟩ | ⟨rfl, -⟩ | ⟨rfl, -⟩ | ⟨rfl, -⟩ <;> decide
  refine ⟨_, step_store hin hidle hwritable.1 hwritable.2, ?reads, fun q hq => ?others, ?kept⟩
  case reads =>
    rcases hr with ⟨rfl, rfl⟩ | ⟨rfl, rfl⟩ | ⟨rfl, rfl⟩ | ⟨rfl, rfl⟩
    · exact setWidth_extractLsb'_eq_and v (by decide)
    · exact setWidth_extractLsb'_eq_and v (by decide)
    · exact (lowWord_writeLow s.tx v).trans BitVec.and_allOnes.symm
    · exact highWord_writeHigh s.tx v
  case others => exact (readReg_storeReg_other hq v _).trans (by cases q <;> rfl)
  case kept => cases r <;> rfl

/-! ### Words written to CMD -/

theorem writeRefusal_cmd_idle {s : State} (hidle : s.stat.busy = false) :
    writeRefusal 4 (regOffset .cmd) s = none := by
  rw [writeRefusal_regOffset, hidle]
  rfl

/-- A legal word written to CMD of an idle block is the instruction that runs (R24). -/
theorem fetch_cmd_legal {s : State} {v : Word} {c : HostCmd} {rest : List (Nat × HostAction)}
    (hin : s.env.inputs = (0, .write 4 (regOffset .cmd) v) :: rest) (hidle : s.stat.busy = false)
    (hdecode : decodeWord v = .ok c) : fetch s = .run c.toInstr (setInputs rest s) := by
  have hlegal := writeRefusal_cmd_idle (s := setInputs rest s) hidle
  rw [fetch_host hin]
  simp only [hostTurn, hostWrite, hlegal, if_true, hdecode]

/-- An illegal word is refused for its encoding (R73). -/
theorem fetch_cmd_illegal {s : State} {v : Word} {e : DecodeError} {rest : List (Nat × HostAction)}
    (hin : s.env.inputs = (0, .write 4 (regOffset .cmd) v) :: rest) (hidle : s.stat.busy = false)
    (hdecode : decodeWord v = .error e) : fetch s = .complete (refuse (.encoding e) (setInputs rest s)) := by
  have hlegal := writeRefusal_cmd_idle (s := setInputs rest s) hidle
  rw [fetch_host hin]
  simp only [hostTurn, hostWrite, hlegal, if_true, hdecode]

/-- Settles O5. -/
theorem stepRunsTheWrittenCommand : Obligations.StepRunsTheWrittenCommand := fun _ _ _ _ hin hidle hdecode =>
  step_of_run (fetch_cmd_legal hin hidle hdecode)

/-- The illegal words of R71, by their fields. -/
theorem decodeWord_error {v : Word} (hillegal : v.toNat / 16 ≠ 0 ∨ v.toNat % 8 = 0 ∨ v.toNat % 8 = 7 ∨
    (v.toNat / 8 % 2 = 1 ∧ v.toNat % 8 ≠ 6)) : ∃ e, decodeWord v = .error e := by
  rw [decodeWord_eq_numeric]
  split_ifs
  case pos | pos | pos => exact ⟨_, rfl⟩
  all_goals omega

/-- Settles O3: an illegal word has an error for its decoding, which is what the mark holds. -/
theorem illegalWordChangesNothing : Obligations.IllegalWordChangesNothing := by
  intro s v rest hin hidle hillegal
  obtain ⟨e, he⟩ := decodeWord_error hillegal
  exact ⟨_, step_of_complete (fetch_cmd_illegal hin hidle he)⟩

/-- Settles O17: issuing is refused exactly for a transfer of no bytes. -/
theorem issueStartsTheCommand : Obligations.IssueStartsTheCommand := by
  intro s c hidle
  have huses : (c = .busWrite ∨ c = .busRead) ↔ usesLen c = true := by cases c <;> simp [usesLen]
  rw [exec_toInstr_idle hidle, huses]
  refine ⟨fun hempty => ?_, fun hlen => ?_⟩
  · rw [issue, if_pos hempty]
    rfl
  · rw [issue, if_neg hlen]
    cases c <;> rfl

/-- Settles O10. -/
theorem blockResetFromAnyState : Obligations.BlockResetFromAnyState := fun _ _ hin =>
  step_of_complete (fetch_host hin)

/-! ### Steps of the block -/

theorem blockTurn_idle {s : State} (hidle : s.stat.busy = false) : blockTurn s = .complete s := if_pos hidle

theorem blockTurn_row {s : State} {i : Instr} (hbusy : s.stat.busy = true) (hrow : rowAt s = some i) :
    blockTurn s = .run i s := by
  simp only [blockTurn, hbusy, hrow, Bool.true_eq_false, if_false]

/-- With no access due, the block moves (R64). -/
theorem fetch_not_due {s : State} {n : Nat} {a : HostAction} {rest : List (Nat × HostAction)}
    (hin : s.env.inputs = (n + 1, a) :: rest) : fetch s = blockTurn (setInputs ((n, a) :: rest) s) := by
  simp only [fetch, hin]

theorem fetch_no_inputs {s : State} (hin : s.env.inputs = []) : fetch s = blockTurn s := by
  simp only [fetch, hin]

/-- Settles O7. -/
theorem idleBlockWaits : Obligations.IdleBlockWaits := fun _ hidle =>
  ⟨fun hin => step_of_complete ((fetch_no_inputs hin).trans (blockTurn_idle hidle)),
    fun _ _ _ hin => step_of_complete ((fetch_not_due hin).trans (blockTurn_idle hidle))⟩

/-- Settles O6: the row at each position is the one listed for it. -/
theorem stepRunsTheSequencerRow : Obligations.StepRunsTheSequencerRow := by
  intro s u i hbusy hturn hpos
  have hrow : rowAt s = some i := by
    rcases hpos with ⟨x, hseq, rfl⟩ | ⟨again, j, hseq, rfl⟩ | ⟨j, hseq, rfl⟩ | ⟨j, hseq, rfl⟩ | ⟨j, hseq, rfl⟩ |
      ⟨c, hcur, rfl, haddr, hdata⟩
    · exact rowAt_address hseq
    · simp only [rowAt, hseq]
    · simp only [rowAt, hseq]
    · simp only [rowAt, hseq]
    · simp only [rowAt, hseq]
    · exact rowAt_command hcur haddr hdata
  rcases hturn with ⟨hin, rfl⟩ | ⟨n, a, rest, hin, rfl⟩
  · exact step_of_run ((fetch_no_inputs hin).trans (blockTurn_row hbusy hrow))
  · exact step_of_run ((fetch_not_due hin).trans (blockTurn_row hbusy hrow))

/-! ### Placed words -/

/-- Where the inputs leave a block step first, a busy block runs its row. -/
theorem fetch_blockFirst {s : State} {i : Instr} {l : List (Nat × HostAction)}
    (hin : s.env.inputs = blockFirst l) (hbusy : s.stat.busy = true) (hrow : rowAt s = some i) :
    ∃ u, fetch s = .run i u := by
  match l with
  | [] => exact ⟨_, (fetch_no_inputs hin).trans (blockTurn_row hbusy hrow)⟩
  | (0, _) :: _ => exact ⟨_, (fetch_not_due hin).trans (blockTurn_row hbusy hrow)⟩
  | (_ + 1, _) :: _ => exact ⟨_, (fetch_not_due hin).trans (blockTurn_row hbusy hrow)⟩

/-- The placed encoding of an instruction is what is fetched. -/
theorem fetch_placeCode (i : Instr) (s : State) : ∃ u, fetch (placeCode (encode i) s) = .run i u := by
  have placedCommand (c : HostCmd) : ∃ u, fetch (placeCode (encode c.toInstr) s) = .run c.toInstr u := by
    have hdecode : decodeWord c.word = .ok c := by
      cases c with
      | measure crcEn => cases crcEn <;> rfl
      | _ => rfl
    rw [encode_toInstr]
    exact ⟨_, fetch_cmd_legal rfl rfl hdecode⟩
  cases i with
  | busWrite => exact placedCommand .busWrite
  | busRead => exact placedCommand .busRead
  | statusRead => exact placedCommand .statusRead
  | initializeCmd => exact placedCommand .initializeCmd
  | softReset => exact placedCommand .softReset
  | measure c => exact placedCommand (.measure c)
  | devInit => exact fetch_blockFirst rfl rfl rfl
  | devMeasure => exact fetch_blockFirst rfl rfl rfl
  | devSoftReset => exact fetch_blockFirst rfl rfl rfl
  | devStatus => exact fetch_blockFirst rfl rfl rfl
  | busAddressByte a d =>
    have hdecode : decodeAddress (addressByte a d) = .busAddressByte a d :=
      Except.ok.inj (decode_encode (.busAddressByte a d))
    cases d <;> (simp only [encode, placeCode, hdecode]; exact fetch_blockFirst rfl rfl rfl)

/-- Settles O8: a table word that decodes stands for the encoding of its row. -/
theorem placedWordRunsNext : Obligations.PlacedWordRunsNext := by
  intro s nbits w i hdecode
  have hplaced : s.withFetchWord nbits w = placeCode (encode i) s := by
    simp only [decodeTableWord] at hdecode
    split at hdecode
    · cases hdecode
    · next c hcode =>
      split at hdecode <;> cases hdecode
      next hc => simp only [State.withFetchWord, hcode, eq_encode_of_decode hc]
  obtain ⟨u, hu⟩ := fetch_placeCode i s
  rw [hplaced]
  exact ⟨u, hu, step_of_run hu⟩

end Sys2Proof.Proofs
end

section
/-! The invariant of a run is kept by every step. -/

namespace Sys2Proof.Proofs

open Sys2Proof.Machine Sys2Proof.Laws

/-! ### What the invariant says of an idle and of a running block -/

theorem cur_of_idle {s : State} (h : Inv s) (hidle : s.stat.busy = false) : s.cur = none := by
  by_contra hcur
  obtain ⟨c, hc⟩ := Option.ne_none_iff_exists'.mp hcur
  exact Bool.false_ne_true (hidle.symm.trans (h.running c hc).1)

theorem seq_of_idle {s : State} (h : Inv s) (hidle : s.stat.busy = false) : s.seq = .idle :=
  (h.atRest (cur_of_idle h hidle)).2

theorem cur_of_busy {s : State} (h : Inv s) (hbusy : s.stat.busy = true) :
    ∃ c, s.cur = some c ∧ fits c s.seq = true := by
  cases hcur : s.cur with
  | none => exact absurd ((h.atRest hcur).1.symm.trans hbusy) Bool.false_ne_true
  | some c => exact ⟨c, rfl, (h.running c hcur).2⟩

theorem waitLeft_of_not_ticking {s : State} (h : Inv s) (hseq : ∀ w, s.seq ≠ .ticking w) : s.waitLeft = 0 := by
  by_contra hwait
  obtain ⟨w, hw⟩ := h.waiting.mp hwait
  exact hseq w hw

/-- The positions outside a MEASURE past its first step. -/
theorem fsm_ne_measuring {s : State} (h : Inv s) (hnot : isMeasuring s.cur s.seq = false) :
    s.stat.fsm ≠ .measuring := fun hfsm =>
  Bool.false_ne_true (hnot.symm.trans (h.measuring.mp hfsm))

/-! ### The moves of the world outside -/

/-- No clause speaks of the world outside. -/
theorem inv_setEnv {s : State} (h : Inv s) (e : Env) : Inv { s with env := e } :=
  ⟨h.atRest, h.running, h.inRange, h.hasLength, h.busPhase, h.framing, h.measuring, h.startState, h.fsmKept,
    h.pending, h.noResult, h.result, h.readyValid, h.defaultReading, h.waiting⟩

theorem inv_refuse {s : State} (h : Inv s) (r : RefuseReason) : Inv (refuse r s) :=
  ⟨h.atRest, h.running, h.inRange, h.hasLength, h.busPhase, h.framing, h.measuring, h.startState, h.fsmKept,
    h.pending, h.noResult, h.result, h.readyValid, h.defaultReading, h.waiting⟩

theorem inv_storeAt {s : State} (h : Inv s) (off : Offset) (v : Word) (hidle : s.stat.busy = false) :
    Inv (storeAt off v s) where
  atRest := by simpa using h.atRest
  running := by simpa using h.running
  inRange := by simp [seq_of_idle h hidle]
  hasLength := by simp [cur_of_idle h hidle]
  busPhase := by simpa using h.busPhase
  framing := by simpa using h.framing
  measuring := by simpa using h.measuring
  startState := by simpa using h.startState
  fsmKept := by simpa using h.fsmKept
  pending := by simpa using h.pending
  noResult := by simpa using h.noResult
  result := by simpa using h.result
  readyValid := by simpa using h.readyValid
  defaultReading := by simpa using h.defaultReading
  waiting := by simpa using h.waiting

/-- Settles O41, clause by clause. -/
theorem invariantAtReset : Obligations.InvariantAtReset where
  atRest _ := ⟨rfl, rfl⟩
  running _ hcur := nomatch hcur
  inRange _ _ hseq := nomatch hseq
  hasLength _ hcur := nomatch hcur
  busPhase := rfl
  framing := rfl
  measuring := by simp [State.reset, isMeasuring]
  startState := by simp [State.reset]
  fsmKept hcur := absurd rfl hcur
  pending hbusy := nomatch hbusy
  noResult _ := ⟨rfl, rfl⟩
  result hdone := nomatch hdone
  readyValid hfsm := nomatch hfsm
  defaultReading _ := ⟨rfl, rfl⟩
  waiting := by simp [State.reset]

/-- Block reset gives the reset state, but for what no clause speaks of. -/
theorem inv_blockReset (s : State) : Inv (blockReset s) :=
  have h : Inv State.reset := invariantAtReset
  ⟨h.atRest, h.running, h.inRange, h.hasLength, h.busPhase, h.framing, h.measuring, h.startState, h.fsmKept,
    h.pending, h.noResult, h.result, h.readyValid, h.defaultReading, h.waiting⟩

theorem firstStep_eq_start (c : HostCmd) : ∃ x, firstStep c = .start x ∧ ownsXfer c x = true := by
  cases c <;> exact ⟨_, rfl, rfl⟩

theorem isMeasuring_firstStep (c : HostCmd) : isMeasuring (some c) (firstStep c) = false := by
  cases c <;> rfl

theorem inv_issue {s : State} (h : Inv s) (c : HostCmd) (hidle : s.stat.busy = false) : Inv (issue c s) := by
  unfold issue
  split
  · exact inv_refuse h _
  next hlen =>
    obtain ⟨x, hfirst, hown⟩ := firstStep_eq_start c
    have hseq : s.seq = .idle := seq_of_idle h hidle
    have hfsm : s.stat.fsm ≠ .measuring :=
      fsm_ne_measuring h (by rw [cur_of_idle h hidle]; rfl)
    exact {
      atRest := nofun
      running := by
        rintro _ ⟨⟩
        exact ⟨rfl, by rw [hfirst]; exact hown⟩
      inRange := by simp [hfirst]
      hasLength := by
        rintro _ ⟨⟩ huses hzero
        exact hlen ⟨huses, hzero⟩
      busPhase := by simpa [hfirst, hseq, busAt] using h.busPhase
      framing := by simpa [hfirst, hseq, phaseAt] using h.framing
      measuring := by simp [Stat.issued, hfsm, isMeasuring_firstStep]
      startState := hfsm
      fsmKept := fun _ => .inr rfl
      pending := fun _ => rfl
      noResult := fun _ => ⟨rfl, rfl⟩
      result := nofun
      readyValid := h.readyValid
      defaultReading := h.defaultReading
      waiting := by simp [hfirst, waitLeft_of_not_ticking h (by simp [hseq])] }

/-! ### A running block that goes on -/

/-- The clauses of the invariant that speak of where a running command stands, its first step apart. -/
structure Stands (c : HostCmd) (s : State) : Prop where
  begun : s.seq ≠ .start .trigger
  fits : fits c s.seq = true
  inRange : ∀ x i, s.seq = .data x i → i < xferLen s x
  busPhase : s.bus = busAt s.seq
  framing : tracePhase s.trace = some (phaseAt s.seq)
  waiting : s.waitLeft ≠ 0 ↔ ∃ w, s.seq = .ticking w

/-- What the other clauses speak of is unchanged. -/
def SameResults (s t : State) : Prop :=
  t.stat = s.stat ∧ t.cur = s.cur ∧ t.preFsm = s.preFsm ∧ t.len = s.len ∧ t.rawH = s.rawH ∧ t.rawT = s.rawT

theorem isMeasuring_eq_of_begun {c : HostCmd} {p q : Seq} (hp : p ≠ .start .trigger) (hq : q ≠ .start .trigger) :
    isMeasuring (some c) p = isMeasuring (some c) q := by
  have begun {r : Seq} (hr : r ≠ .start .trigger) :
      isMeasuring (some c) r = match c with | .measure _ => true | _ => false := by
    unfold isMeasuring
    split <;> simp_all
  rw [begun hp, begun hq]

/-- A move that changes no result and comes to a position of the command keeps the invariant. -/
theorem Stands.inv {s t : State} {c : HostCmd} (hstands : Stands c t) (h : Inv s) (hcur : s.cur = some c)
    (hbegun : s.seq ≠ .start .trigger) (hsame : SameResults s t) : Inv t := by
  obtain ⟨hstat, hcurt, hpre, hlen, hrawH, hrawT⟩ := hsame
  have hcurt : t.cur = some c := hcurt.trans hcur
  exact {
    atRest := by simp [hcurt]
    running := by
      intro d hd
      obtain rfl : c = d := Option.some.inj (hcurt.symm.trans hd)
      exact ⟨by rw [hstat]; exact (h.running c hcur).1, hstands.fits⟩
    inRange := hstands.inRange
    hasLength := by
      rw [hcurt, ← hcur, hlen]
      exact h.hasLength
    busPhase := hstands.busPhase
    framing := hstands.framing
    measuring := by
      rw [hstat, hcurt, isMeasuring_eq_of_begun hstands.begun hbegun, ← hcur]
      exact h.measuring
    startState := by rw [hpre]; exact h.startState
    fsmKept := by
      rw [hstat, hpre, hcurt, ← hcur]
      exact h.fsmKept
    pending := by rw [hstat]; exact h.pending
    noResult := by rw [hstat]; exact h.noResult
    result := by rw [hstat]; exact h.result
    readyValid := by rw [hstat]; exact h.readyValid
    defaultReading := by rw [hstat, hrawH, hrawT]; exact h.defaultReading
    waiting := hstands.waiting }

/-! ### Bytes -/

/-- Inside a transaction no settle wait is on. -/
theorem waiting_of_inTransaction {s : State} (hwait : s.waitLeft = 0) (hbus : busAt s.seq = .inTransaction) :
    s.waitLeft ≠ 0 ↔ ∃ w, s.seq = .ticking w := by
  constructor
  · exact fun h => absurd hwait h
  · rintro ⟨w, hseq⟩
    simp [hseq, busAt] at hbus

/-- A byte of transaction `x` is next: the address byte, or data byte `i`. -/
def atByte (s : State) (x : Xfer) : Prop := s.seq = .address x ∨ ∃ i, s.seq = .data x i

theorem busAt_of_atByte {s : State} {x : Xfer} (h : atByte s x) : busAt s.seq = .inTransaction := by
  rcases h with h | ⟨i, h⟩ <;> rw [h] <;> rfl

/-- A transaction stands at its next byte or at its STOP. -/
theorem stands_of_next {c : HostCmd} {x : Xfer} {t : State} {i : Nat} (hown : ownsXfer c x = true)
    (hseq : t.seq = dataOrStop x i (xferLen t x)) (hbus : t.bus = .inTransaction) (hwait : t.waitLeft = 0)
    (hframing : tracePhase t.trace = some (phaseAt t.seq)) : Stands c t := by
  rcases dataOrStop_cases x i (xferLen t x) with ⟨hlt, hnext⟩ | ⟨-, hnext⟩
  · have hseq : t.seq = .data x i := hseq.trans hnext
    have hbusAt : busAt t.seq = .inTransaction := by rw [hseq]; rfl
    exact ⟨by simp [hseq], by rw [hseq]; exact hown, by rw [hseq]; rintro _ _ ⟨⟩; exact hlt,
      hbus.trans hbusAt.symm, hframing, waiting_of_inTransaction hwait hbusAt⟩
  · have hseq : t.seq = .stop x true := hseq.trans hnext
    have hbusAt : busAt t.seq = .inTransaction := by rw [hseq]; rfl
    exact ⟨by simp [hseq], by rw [hseq]; exact hown, by simp [hseq],
      hbus.trans hbusAt.symm, hframing, waiting_of_inTransaction hwait hbusAt⟩

/-- A failed byte leads to STOP. -/
theorem stands_of_failed {c : HostCmd} {x : Xfer} {t : State} (hown : ownsXfer c x = true)
    (hseq : t.seq = .stop x false) (hbus : t.bus = .inTransaction) (hwait : t.waitLeft = 0)
    (hframing : tracePhase t.trace = some .closing) : Stands c t := by
  have hbusAt : busAt t.seq = .inTransaction := by rw [hseq]; rfl
  exact ⟨by simp [hseq], by rw [hseq]; exact hown, by simp [hseq], hbus.trans hbusAt.symm,
    by rw [hframing, hseq]; rfl, waiting_of_inTransaction hwait hbusAt⟩

/-- A stalled byte leaves the block where it is. -/
theorem stands_of_stalled {c : HostCmd} {s t : State} (h : Inv s) (hcur : s.cur = some c)
    (hbegun : s.seq ≠ .start .trigger) (hseq : t.seq = s.seq) (htrace : t.trace = s.trace) (hbus : t.bus = s.bus)
    (hwait : t.waitLeft = s.waitLeft) (hlen : t.len = s.len) : Stands c t where
  begun := by rw [hseq]; exact hbegun
  fits := by rw [hseq]; exact (h.running c hcur).2
  inRange := by
    intro x i hi
    rw [xferLen_congr hlen]
    exact h.inRange x i (hseq.symm.trans hi)
  busPhase := by rw [hbus, hseq]; exact h.busPhase
  framing := by rw [htrace, hseq]; exact h.framing
  waiting := by rw [hwait, hseq]; exact h.waiting

/-- The phase after an event. -/
theorem tracePhase_event {s : State} {l : List BusEvent} {e : BusEvent} {p : TracePhase}
    (hframing : tracePhase s.trace = some (phaseAt s.seq)) (htrace : l = s.trace ++ [e])
    (hnext : (phaseAt s.seq).next e = some p) : tracePhase l = some p := by
  rw [htrace, tracePhase_append, hframing]
  exact hnext

theorem own_of_atByte {s : State} {c : HostCmd} {x : Xfer} (h : Inv s) (hcur : s.cur = some c)
    (hat : atByte s x) : ownsXfer c x = true := by
  have hfits := (h.running c hcur).2
  rcases hat with hseq | ⟨i, hseq⟩ <;> rwa [hseq] at hfits

theorem begun_of_atByte {s : State} {x : Xfer} (hat : atByte s x) : s.seq ≠ .start .trigger := by
  rcases hat with hseq | ⟨i, hseq⟩ <;> simp [hseq]

theorem bus_of_atByte {s : State} {x : Xfer} (h : Inv s) (hat : atByte s x) : s.bus = .inTransaction :=
  h.busPhase.trans (busAt_of_atByte hat)

theorem waitLeft_of_atByte {s : State} {x : Xfer} (h : Inv s) (hat : atByte s x) : s.waitLeft = 0 := by
  apply waitLeft_of_not_ticking h
  rcases hat with hseq | ⟨i, hseq⟩ <;> simp [hseq]

/-- A step of sending a byte comes to the next byte or the STOP, fails, or stalls. -/
theorem inv_transmit {s : State} {c : HostCmd} {x : Xfer} {b : Byte} {i : Nat} (h : Inv s)
    (hcur : s.cur = some c) (hat : atByte s x)
    (hack : (phaseAt s.seq).next (.tx b .ack) = some (phaseAt (dataOrStop x i (xferLen s x))))
    (hnack : (phaseAt s.seq).next (.tx b .nack) = some .closing)
    (hfail : ∀ cause, (phaseAt s.seq).next (.fail cause) = some .closing) :
    Inv (transmit x b (dataOrStop x i (xferLen s x)) s) := by
  have hown := own_of_atByte h hcur hat
  have hbus := (transmit_bus x b (dataOrStop x i (xferLen s x)) s).trans (bus_of_atByte h hat)
  have hwait := (transmit_waitLeft x b (dataOrStop x i (xferLen s x)) s).trans (waitLeft_of_atByte h hat)
  refine Stands.inv (c := c) ?_ h hcur (begun_of_atByte hat) (by simp [SameResults])
  rcases transmit_cases x b (dataOrStop x i (xferLen s x)) s with
    ⟨hseq, htrace, -⟩ | ⟨hseq, htrace, -⟩ | ⟨hseq, htrace, -⟩ | ⟨hseq, htrace, -⟩ | ⟨hseq, htrace, -⟩
  · exact stands_of_next hown (by rw [xferLen_congr (transmit_len _ _ _ s)]; exact hseq) hbus hwait
      (by rw [hseq]; exact tracePhase_event h.framing htrace hack)
  · exact stands_of_failed hown hseq hbus hwait (tracePhase_event h.framing htrace hnack)
  · exact stands_of_failed hown hseq hbus hwait (tracePhase_event h.framing htrace (hfail _))
  · exact stands_of_failed hown hseq hbus hwait (tracePhase_event h.framing htrace (hfail _))
  · exact stands_of_stalled h hcur (begun_of_atByte hat) hseq htrace (by simp) (by simp) (by simp)

/-- No transaction is empty. -/
theorem xferLen_pos {s : State} {c : HostCmd} {x : Xfer} (h : Inv s) (hcur : s.cur = some c)
    (hown : ownsXfer c x = true) : 0 < xferLen s x := by
  have hlen (huses : usesLen c = true) : 0 < s.len.toNat := by
    have := h.hasLength c hcur huses
    rw [Nat.pos_iff_ne_zero]
    exact fun hzero => this (BitVec.eq_of_toNat_eq hzero)
  cases x with
  | hostWrite | hostRead => exact hlen (by cases c <;> simp [ownsXfer, usesLen] at hown ⊢)
  | frameRead crcEn => cases crcEn <;> exact Nat.succ_pos _
  | _ => exact Nat.succ_pos _

/-- The address byte's direction bit opens the phase of its data bytes (R75 to R77). -/
theorem inv_address {s : State} {c : HostCmd} {x : Xfer} (h : Inv s) (hcur : s.cur = some c)
    (hseq : s.seq = .address x) :
    Inv (transmit x (addressByte s.devAddr x.dir) (dataOrStop x 0 (xferLen s x)) s) := by
  have hat : atByte s x := .inl hseq
  refine inv_transmit h hcur hat ?_ (by rw [hseq]; rfl) (fun _ => by rw [hseq]; rfl)
  rw [hseq, dataOrStop_lt (xferLen_pos h hcur (own_of_atByte h hcur hat))]
  simp only [phaseAt, TracePhase.next, addressByte_bit0]
  cases x.dir <;> rfl

theorem inv_sendByte {s : State} {c : HostCmd} {x : Xfer} {i : Nat} (b : Byte) (h : Inv s)
    (hcur : s.cur = some c) (hseq : s.seq = .data x i) (hdir : x.dir = .write) :
    Inv (sendByte x b i s) := by
  have hphase : phaseAt s.seq = .sending := by rw [hseq, phaseAt, hdir]
  refine inv_transmit h hcur (.inr ⟨i, hseq⟩) ?_ (by rw [hphase]; rfl) (fun _ => by rw [hphase]; rfl)
  rw [hphase]
  rcases dataOrStop_cases x (i + 1) (xferLen s x) with ⟨-, hnext⟩ | ⟨-, hnext⟩ <;>
    rw [hnext, phaseAt, hdir] <;> rfl

/-- The block's answer to a received byte tells whether another follows (R76). -/
theorem inv_receiveByte {s : State} {c : HostCmd} {x : Xfer} {i : Nat} (h : Inv s)
    (hcur : s.cur = some c) (hseq : s.seq = .data x i) (hdir : x.dir = .read) :
    Inv (receiveByte x i s) := by
  have hat : atByte s x := .inr ⟨i, hseq⟩
  have hown := own_of_atByte h hcur hat
  have hbus := (receiveByte_bus x i s).trans (bus_of_atByte h hat)
  have hwait := (receiveByte_waitLeft x i s).trans (waitLeft_of_atByte h hat)
  have hphase : phaseAt s.seq = .receiving := by rw [hseq, phaseAt, hdir]
  have hfail (cause : FailCause) : (phaseAt s.seq).next (.fail cause) = some .closing := by rw [hphase]; rfl
  refine Stands.inv (c := c) ?_ h hcur (begun_of_atByte hat) (by simp [SameResults])
  rcases receiveByte_cases x i s with
    ⟨d, hnext, htrace, -⟩ | ⟨hnext, htrace, -⟩ | ⟨hnext, htrace, -⟩ | ⟨hnext, htrace, -⟩
  · refine stands_of_next hown (by rw [xferLen_congr (receiveByte_len _ _ s)]; exact hnext) hbus hwait
      (tracePhase_event h.framing htrace ?_)
    rw [hnext, hphase]
    by_cases hlt : i + 1 < xferLen s x
    · rw [dataOrStop_lt hlt, readAck, if_pos hlt, phaseAt, hdir]
      rfl
    · rw [dataOrStop_ge (not_lt.mp hlt), readAck, if_neg hlt, phaseAt, hdir]
      rfl
  · exact stands_of_failed hown hnext hbus hwait (tracePhase_event h.framing htrace (hfail _))
  · exact stands_of_failed hown hnext hbus hwait (tracePhase_event h.framing htrace (hfail _))
  · exact stands_of_stalled h hcur (begun_of_atByte hat) hnext htrace (by simp) (by simp) (by simp)

/-! ### Between transactions -/

/-- A transaction starts from the idle bus. -/
theorem inv_openXfer {s : State} {c : HostCmd} {x : Xfer} (h : Inv s) (hcur : s.cur = some c)
    (hseq : s.seq = .start x) (hx : x ≠ .trigger) : Inv (openXfer x s) := by
  have hfits := (h.running c hcur).2
  rw [hseq] at hfits
  have hwait : s.waitLeft = 0 := waitLeft_of_not_ticking h (by simp [hseq])
  refine Stands.inv (c := c) ?_ h hcur (by simpa [hseq] using hx) (by simp [SameResults])
  exact {
    begun := nofun
    fits := hfits
    inRange := nofun
    busPhase := rfl
    framing := tracePhase_event h.framing rfl (by rw [hseq]; rfl)
    waiting := waiting_of_inTransaction hwait rfl }

/-- The positions a command comes to when a transaction or a wait of it ends: none is inside a transaction
or a wait. -/
def isBetween (c : HostCmd) (q : Seq) : Prop :=
  fits c q = true ∧ q ≠ .start .trigger ∧
    ((∃ x, q = .start x) ∨ (∃ w, q = .settle w) ∨ q = .evaluate ∨ ∃ e, q = .final e)

theorem stands_of_isBetween {c : HostCmd} {t : State} (hseq : isBetween c t.seq) (hbus : t.bus = .idle)
    (hframing : tracePhase t.trace = some .outside) (hwait : t.waitLeft = 0) : Stands c t := by
  obtain ⟨hfits, hbegun, hbetween⟩ := hseq
  have hplace : busAt t.seq = .idle ∧ phaseAt t.seq = .outside ∧ (∀ x i, t.seq ≠ .data x i) ∧
      ∀ w, t.seq ≠ .ticking w := by
    rcases hbetween with ⟨x, h⟩ | ⟨w, h⟩ | h | ⟨e, h⟩ <;> simp [h, busAt, phaseAt]
  obtain ⟨hbusAt, hphaseAt, hdata, hticking⟩ := hplace
  exact {
    begun := hbegun
    fits := hfits
    inRange := fun x i hi => absurd hi (hdata x i)
    busPhase := hbus.trans hbusAt.symm
    framing := hframing.trans (congrArg some hphaseAt.symm)
    waiting := by simp [hwait, hticking] }

/-- Where a STATUS byte leads. -/
theorem isBetween_onStatus {c : HostCmd} {s : State} (again : Bool) (b : Byte) (hcur : s.cur = some c)
    (hown : ownsXfer c (.statusRead again) = true) : isBetween c (onStatus s again b) := by
  unfold onStatus isBetween
  cases c <;> simp [ownsXfer] at hown <;> simp [hcur]
  · simp [afterStatus, fits, ownsFinal]
  · unfold afterInitStatus
    split_ifs <;> simp [fits, ownsFinal, ownsXfer]

theorem isBetween_afterXfer {c : HostCmd} {s : State} {x : Xfer} (hcur : s.cur = some c)
    (hown : ownsXfer c x = true) : isBetween c (afterXfer s x) := by
  cases x with
  | statusRead again => exact isBetween_onStatus again _ hcur hown
  | _ => cases c <;> simp [ownsXfer] at hown <;> simp [isBetween, afterXfer, fits, ownsFinal, ownsXfer, ownsSettle, hown]

theorem isBetween_transport (c : HostCmd) : isBetween c (.final .transport) := by
  cases c <;> simp [isBetween, fits, ownsFinal]

theorem isBetween_afterSettle {c : HostCmd} {s : State} {w : Settle} (hcur : s.cur = some c)
    (hown : ownsSettle c w = true) : isBetween c (afterSettle s w) := by
  cases w with
  | measure =>
    cases c <;> simp [ownsSettle] at hown
    rw [afterSettle, crcEn_eq_cur hcur]
    simp [isBetween, fits, ownsXfer]
  | _ =>
    cases c <;> simp [ownsSettle] at hown
    simp [isBetween, afterSettle, fits, ownsFinal, ownsXfer]

/-- A status read's transactions are owned by the commands that read the status (R165). -/
theorem own_statusRead {c : HostCmd} {x : Xfer} {again : Bool} (hown : ownsXfer c x = true)
    (hstatus : isStatusXfer x = some again) : ownsXfer c (.statusRead again) = true := by
  cases x <;> cases hstatus <;> cases c <;> simp_all [ownsXfer]

theorem closeFailed_isBetween {c : HostCmd} {s : State} {x : Xfer} (hcur : s.cur = some c)
    (hown : ownsXfer c x = true) : isBetween c (closeFailed x s).seq := by
  rcases closeFailed_cases s x with ⟨again, hstatus, h⟩ | ⟨-, h⟩
  · rw [h]
    rcases absorbFailure_cases x (onStatus s again) s with ⟨-, hseq, -⟩ | ⟨-, hseq, -⟩ <;> rw [hseq]
    · exact isBetween_transport c
    · exact isBetween_onStatus again 0 hcur (own_statusRead hown hstatus)
  · rw [h]
    exact isBetween_transport c

/-- What the STOP of a failed transaction leaves alone. -/
theorem closeFailed_kept (x : Xfer) (s : State) : SameResults s (closeFailed x s) ∧
    (closeFailed x s).bus = .idle ∧ (closeFailed x s).waitLeft = s.waitLeft := by
  rcases closeFailed_cases s x with ⟨_, -, h⟩ | ⟨-, h⟩ <;> simp [h, SameResults]

/-- Only STOP leads out of a transaction, and only from its STOP position (R106). -/
theorem stop_next (x : Xfer) (ok : Bool) : (phaseAt (.stop x ok)).next .stop = some .outside := by
  cases ok with
  | true => simp only [phaseAt]; cases x.dir <;> rfl
  | false => rfl

/-- A transaction ends on the idle bus. -/
theorem inv_close {s t : State} {c : HostCmd} {x : Xfer} {ok : Bool} (h : Inv s) (hcur : s.cur = some c)
    (hseq : s.seq = .stop x ok) (hbetween : isBetween c t.seq) (hsame : SameResults s t) (hbus : t.bus = .idle)
    (hwait : t.waitLeft = s.waitLeft) (htrace : t.trace = s.trace ++ [.stop]) : Inv t :=
  have hframing := tracePhase_event h.framing htrace (by rw [hseq]; exact stop_next x ok)
  have hzero : s.waitLeft = 0 := waitLeft_of_not_ticking h (by simp [hseq])
  (stands_of_isBetween hbetween hbus hframing (hwait.trans hzero)).inv h hcur (by simp [hseq]) hsame

theorem inv_stop {s : State} {c : HostCmd} {x : Xfer} {ok : Bool} (h : Inv s) (hcur : s.cur = some c)
    (hseq : s.seq = .stop x ok) : Inv (if ok then closeXfer x true (afterXfer s x) s else closeFailed x s) := by
  have hown : ownsXfer c x = true := by
    have hfits := (h.running c hcur).2
    rwa [hseq] at hfits
  cases ok with
  | true =>
    exact inv_close (t := closeXfer x true (afterXfer s x) s) h hcur hseq (isBetween_afterXfer hcur hown)
      (by simp [SameResults]) (by simp) (by simp) (by simp)
  | false =>
    obtain ⟨hsame, hbus, hwait⟩ := closeFailed_kept x s
    exact inv_close (t := closeFailed x s) h hcur hseq (closeFailed_isBetween hcur hown) hsame hbus hwait
      (closeFailed_trace x s)

/-! ### Settle waits -/

theorem inv_beginWait {s : State} {c : HostCmd} {w : Settle} (q : Seq) (h : Inv s) (hcur : s.cur = some c)
    (hseq : s.seq = .settle w) : Inv (beginWait w q s) := by
  have hown := (h.running c hcur).2
  rw [hseq] at hown
  obtain ⟨hticks, hticking⟩ := beginWait_spec w q s
  have hpos := (minTicks_pos s.cfg w).trans_le hticks
  refine Stands.inv (c := c) ?_ h hcur (by simp [hseq]) (by simp [SameResults])
  exact {
    begun := by simp [hticking]
    fits := by rw [hticking]; exact hown
    inRange := by simp [hticking]
    busPhase := by simpa [hticking, hseq, busAt] using h.busPhase
    framing := by
      rw [hticking]
      exact tracePhase_event h.framing (beginWait_trace w q s) (by rw [hseq]; rfl)
    waiting := by simp [hticking, hpos.ne'] }

theorem inv_tick {s : State} {c : HostCmd} {w : Settle} (h : Inv s) (hcur : s.cur = some c)
    (hseq : s.seq = .ticking w) : Inv (tick (afterSettle s w) s) := by
  have hown := (h.running c hcur).2
  rw [hseq] at hown
  have hbus : s.bus = .idle := by simpa [hseq, busAt] using h.busPhase
  have hframing : tracePhase s.trace = some .outside := by simpa [hseq, phaseAt] using h.framing
  refine Stands.inv (c := c) ?_ h hcur (by simp [hseq]) (by simp [SameResults])
  by_cases hlast : s.waitLeft ≤ 1
  · refine stands_of_isBetween ?_ hbus hframing (Nat.sub_eq_zero_of_le hlast)
    rw [tick_seq, if_pos hlast]
    exact isBetween_afterSettle hcur hown
  · have hseqt : (tick (afterSettle s w) s).seq = .ticking w := by rw [tick_seq, if_neg hlast, hseq]
    exact {
      begun := by rw [hseqt]; nofun
      fits := by rw [hseqt]; exact hown
      inRange := by rw [hseqt]; nofun
      busPhase := by rw [hseqt]; exact hbus
      framing := by rw [hseqt]; exact hframing
      waiting := by
        rw [hseqt]
        exact iff_of_true (Nat.sub_ne_zero_of_lt (not_le.mp hlast)) ⟨w, rfl⟩ }

/-! ### Final steps -/

/-- A command that ends outside a transaction leaves the block at rest. -/
theorem inv_finish {u : State} (e : ErrCode) (hbus : u.bus = .idle) (hframing : tracePhase u.trace = some .outside)
    (hwait : u.waitLeft = 0) (hstart : u.preFsm ≠ .measuring) (hfsm : u.stat.fsm ≠ .measuring)
    (hready : u.stat.fsm = .ready → u.stat.valid = true)
    (hdefault : u.stat.valid = false → u.rawH = 0 ∧ u.rawT = 0) : Inv (finish e u) where
  atRest _ := ⟨rfl, rfl⟩
  running _ hcur := nomatch hcur
  inRange _ _ hseq := nomatch hseq
  hasLength _ hcur := nomatch hcur
  busPhase := hbus
  framing := hframing
  measuring := ⟨fun h => absurd h hfsm, fun h => nomatch h⟩
  startState := hstart
  fsmKept hcur := absurd rfl hcur
  pending hbusy := nomatch hbusy
  noResult hdone := nomatch hdone
  result _ := rfl
  readyValid := hready
  defaultReading := hdefault
  waiting := by simp [hwait]

/-- The final step's FSM is CALIBRATED, UNINITIALIZED, or the present one where that is no MEASURE's. -/
theorem finalFsm_cases {s : State} {c : HostCmd} {e : ErrCode} (h : Inv s) (hcur : s.cur = some c)
    (hseq : s.seq = .final e) :
    finalFsm e s = .uninitialized ∨ finalFsm e s = .calibrated ∨
      (finalFsm e s = s.stat.fsm ∧ s.stat.fsm ≠ .measuring) := by
  have kept (hnot : isMeasuring (some c) (.final e) = false) :
      s.stat.fsm ≠ .measuring ∧ s.preFsm = s.stat.fsm := by
    have hfsm := fsm_ne_measuring h (by rw [hcur, hseq]; exact hnot)
    exact ⟨hfsm, ((h.fsmKept (by simp [hcur])).resolve_left hfsm).symm⟩
  unfold finalFsm
  rw [hcur]
  cases c with
  | busWrite | busRead | statusRead => exact .inr (.inr ⟨rfl, (kept rfl).1⟩)
  | softReset => exact .inl rfl
  | measure c =>
    simp only [teFsm]
    split <;> simp
  | initializeCmd =>
    obtain ⟨hfsm, hpre⟩ := kept rfl
    cases e <;> simp only [initFsm, teFsm]
    case transport => split <;> simp [hpre, hfsm]
    all_goals simp

theorem inv_final {s : State} {c : HostCmd} {e : ErrCode} (h : Inv s) (hcur : s.cur = some c)
    (hseq : s.seq = .final e) : Inv (finish e (setFsm (finalFsm e s) s)) := by
  have hbus : s.bus = .idle := by simpa [hseq, busAt] using h.busPhase
  have hframing : tracePhase s.trace = some .outside := by simpa [hseq, phaseAt] using h.framing
  have hwait : s.waitLeft = 0 := waitLeft_of_not_ticking h (by simp [hseq])
  have hfsm : finalFsm e s ≠ .measuring ∧ (finalFsm e s = .ready → s.stat.valid = true) := by
    rcases finalFsm_cases h hcur hseq with hf | hf | ⟨hf, hnot⟩ <;> rw [hf]
    · exact ⟨nofun, nofun⟩
    · exact ⟨nofun, nofun⟩
    · exact ⟨hnot, h.readyValid⟩
  exact inv_finish e hbus hframing hwait h.startState hfsm.1 hfsm.2 h.defaultReading

/-- MEASURE's first step (R177, R179). -/
theorem inv_beginMeasure {s : State} {c : HostCmd} (h : Inv s) (hcur : s.cur = some c)
    (hseq : s.seq = .start .trigger) : Inv (beginMeasure s) := by
  have hbus : s.bus = .idle := by simpa [hseq, busAt] using h.busPhase
  have hframing : tracePhase s.trace = some .outside := by simpa [hseq, phaseAt] using h.framing
  have hwait : s.waitLeft = 0 := waitLeft_of_not_ticking h (by simp [hseq])
  obtain ⟨hbusy, hfits⟩ := h.running c hcur
  rw [hseq] at hfits
  unfold beginMeasure
  split
  next huninit =>
    exact inv_finish _ hbus hframing hwait h.startState (by simp [huninit]) h.readyValid h.defaultReading
  next =>
    exact {
      atRest := by simp [hcur]
      running := by
        intro d hd
        obtain rfl : c = d := Option.some.inj (hcur.symm.trans hd)
        exact ⟨hbusy, hfits⟩
      inRange := nofun
      hasLength := h.hasLength
      busPhase := rfl
      framing := tracePhase_event h.framing rfl (by rw [hseq]; rfl)
      measuring := by
        cases c <;> simp [fits, ownsXfer] at hfits
        simp [hcur, isMeasuring]
      startState := h.startState
      fsmKept := fun _ => .inl rfl
      pending := h.pending
      noResult := h.noResult
      result := h.result
      readyValid := nofun
      defaultReading := h.defaultReading
      waiting := by simp [hwait] }

/-- MEASURE's final step over its frame (R177). -/
theorem inv_evaluateFrame {s : State} (crcEn : Bool) (h : Inv s) (hseq : s.seq = .evaluate) :
    Inv (evaluateFrame crcEn s) := by
  have hbus : s.bus = .idle := by simpa [hseq, busAt] using h.busPhase
  have hframing : tracePhase s.trace = some .outside := by simpa [hseq, phaseAt] using h.framing
  have hwait : s.waitLeft = 0 := waitLeft_of_not_ticking h (by simp [hseq])
  rcases evaluateFrame_cases crcEn s with ⟨-, hend⟩ | ⟨-, -, -, hend⟩ | ⟨-, -, -, hend⟩ | ⟨-, -, hend⟩ <;> rw [hend]
  · exact inv_finish _ hbus hframing hwait h.startState nofun nofun h.defaultReading
  · exact inv_finish _ hbus hframing hwait h.startState nofun nofun h.defaultReading
  · exact inv_finish _ hbus hframing hwait h.startState nofun (fun _ => rfl) nofun
  · exact inv_finish _ hbus hframing hwait h.startState nofun (fun _ => rfl) nofun

/-! ### Every step -/

theorem inv_blockMove {s : State} (h : Inv s) (hbusy : s.stat.busy = true) : Inv (blockMove s) := by
  obtain ⟨c, hcur, -⟩ := cur_of_busy h hbusy
  unfold blockMove
  split
  case h_1 => exact h
  case h_2 x hseq =>
    split
    · next hx => subst hx; exact inv_beginMeasure h hcur hseq
    · next hx => exact inv_openXfer h hcur hseq hx
  case h_3 hseq => exact inv_address h hcur hseq
  case h_4 hseq =>
    split
    · next hdir => exact inv_sendByte _ h hcur hseq hdir
    · next hdir => exact inv_receiveByte h hcur hseq hdir
  case h_5 hseq => exact inv_stop h hcur hseq
  case h_6 hseq => exact inv_beginWait _ h hcur hseq
  case h_7 hseq => exact inv_tick h hcur hseq
  case h_8 hseq => exact inv_evaluateFrame _ h hseq
  case h_9 hseq => exact inv_final h hcur hseq

/-- Settles O42: each kind of move keeps the invariant, and the block's is the move of its position. -/
theorem invariantKeptByEveryStep : Obligations.InvariantKeptByEveryStep := by
  intro s t h hstep
  cases move_of_step hstep with
  | observes e => exact inv_setEnv h e
  | refuses r e => exact inv_refuse (inv_setEnv h e) r
  | stores off v e hidle => exact inv_storeAt (inv_setEnv h e) off v hidle
  | resets e _ => exact inv_blockReset _
  | issues c e hidle => exact inv_issue (inv_setEnv h e) c hidle
  | runs e hbusy => exact inv_blockMove (inv_setEnv h e) hbusy

end Sys2Proof.Proofs
end

section
/-! The statements about every step of a run: it answers, and what it can change, where. -/

namespace Sys2Proof.Proofs

open Sys2Proof.Machine Sys2Proof.Laws

/-! ### Progress -/

/-- The block's turn is a wait, or the move of the position it stands at. -/
theorem blockTurn_answers {s : State} (h : Inv s) :
    blockTurn s = .complete s ∨ ∃ i, blockTurn s = .run i s ∧ exec i s = .next (blockMove s) := by
  cases hbusy : s.stat.busy with
  | false => exact .inl (blockTurn_idle hbusy)
  | true =>
    obtain ⟨c, hcur, hfits⟩ := cur_of_busy h hbusy
    obtain ⟨i, hrow, hexec⟩ := exec_rowAt_running hbusy hcur hfits
    exact .inr ⟨i, blockTurn_row hbusy hrow, hexec⟩

/-- A host's turn is complete, or runs a command word on an idle block. -/
theorem hostTurn_answers (a : HostAction) (s : State) :
    (∃ t, hostTurn a s = .complete t) ∨ ∃ c : HostCmd, hostTurn a s = .run c.toInstr s ∧ s.stat.busy = false := by
  cases hturn : hostTurn a s with
  | complete t => exact .inl ⟨t, rfl⟩
  | run i u =>
    obtain ⟨hidle, c, rfl⟩ := hostTurn_run_issues hturn
    rw [hostTurn_run hturn]
    exact .inr ⟨c, rfl, hidle⟩
  | lost =>
    cases a with
    | write size off v =>
      simp only [hostTurn, hostWrite] at hturn
      repeat' split at hturn
      all_goals cases hturn
    | read size off => cases hturn
    | poll gap => cases hturn
    | blockReset => cases hturn

theorem step_answers_of_blockTurn {s u : State} (h : Inv u) (hfetch : fetch s = blockTurn u) :
    ∃ t, step s = .next t := by
  rcases blockTurn_answers h with hturn | ⟨i, hturn, hexec⟩
  · exact ⟨_, step_of_complete (hfetch.trans hturn)⟩
  · exact ⟨_, (step_of_run (hfetch.trans hturn)).trans hexec⟩

/-- Settles O43: the host's turn and the block's both answer. -/
theorem everyStepAnswers : Obligations.EveryStepAnswers := by
  intro s h
  match hin : s.env.inputs with
  | [] => exact step_answers_of_blockTurn h (fetch_no_inputs hin)
  | (n + 1, a) :: rest => exact step_answers_of_blockTurn (inv_setEnv h _) (fetch_not_due hin)
  | (0, a) :: rest =>
    rcases hostTurn_answers a (setInputs rest s) with ⟨t, hturn⟩ | ⟨c, hturn, hidle⟩
    · exact ⟨t, step_of_complete ((fetch_host hin).trans hturn)⟩
    · exact ⟨_, (step_of_run ((fetch_host hin).trans hturn)).trans (exec_toInstr_idle hidle)⟩

/-! ### The moves at MEASURE's and the final positions -/

theorem blockMove_trigger {s : State} (hseq : s.seq = .start .trigger) : blockMove s = beginMeasure s := by
  simp only [blockMove, hseq, if_true]

theorem blockMove_evaluate {s : State} {c : Bool} (hcur : s.cur = some (.measure c)) (hseq : s.seq = .evaluate) :
    blockMove s = evaluateFrame c s := by
  simp only [blockMove, hseq, crcEn_eq_cur hcur]

theorem blockMove_final {s : State} {e : ErrCode} (hseq : s.seq = .final e) :
    blockMove s = finish e (setFsm (finalFsm e s) s) := by
  simp only [blockMove, hseq]

/-- The running MEASURE behind its positions. -/
theorem measure_of_evaluate {s : State} (h : Inv s) (hbusy : s.stat.busy = true) (hseq : s.seq = .evaluate) :
    ∃ c, s.cur = some (.measure c) := by
  obtain ⟨d, hcur, hfits⟩ := cur_of_busy h hbusy
  rw [hseq] at hfits
  cases d <;> simp [fits] at hfits
  exact ⟨_, hcur⟩

theorem measure_of_trigger {s : State} (h : Inv s) (hbusy : s.stat.busy = true) (hseq : s.seq = .start .trigger) :
    ∃ c, s.cur = some (.measure c) := by
  obtain ⟨d, hcur, hfits⟩ := cur_of_busy h hbusy
  rw [hseq] at hfits
  cases d <;> simp [fits, ownsXfer] at hfits
  exact ⟨_, hcur⟩

/-- Everywhere else a move leaves STAT and the CRC registers alone. -/
theorem blockMove_stat_crc (s : State) : s.seq = .start .trigger ∨ s.seq = .evaluate ∨ (∃ e, s.seq = .final e) ∨
    ((blockMove s).stat = s.stat ∧ (blockMove s).crcCalc = s.crcCalc ∧ (blockMove s).crcRecv = s.crcRecv) := by
  unfold blockMove
  split
  case h_2 x hseq =>
    split
    · next hx => exact .inl (hx ▸ hseq)
    · simp
  case h_4 => split <;> simp
  case h_5 x ok _ =>
    split
    · simp
    · rcases closeFailed_cases s x with ⟨_, -, h⟩ | ⟨-, h⟩ <;> simp [h]
  case h_8 hseq => exact .inr (.inl hseq)
  case h_9 e hseq => exact .inr (.inr (.inl ⟨e, hseq⟩))
  all_goals simp

/-! ### CRCR -/

/-- A frame's final step writes CRCR exactly with CRC_EN and no busy bit (R38, R182). -/
theorem evaluateFrame_crc (c : Bool) (s : State) :
    ((evaluateFrame c s).crcCalc = s.crcCalc ∧ (evaluateFrame c s).crcRecv = s.crcRecv) ∨
    (c = true ∧ s.rx[0].getLsbD 7 = false ∧
      (evaluateFrame c s).crcCalc = crc8 [s.rx[0], s.rx[1], s.rx[2], s.rx[3], s.rx[4], s.rx[5]] ∧
      (evaluateFrame c s).crcRecv = s.rx[6]) := by
  rcases evaluateFrame_cases c s with ⟨-, h⟩ | ⟨hbit, hc, -, h⟩ | ⟨hbit, hc, -, h⟩ | ⟨-, -, h⟩ <;> rw [h]
  · exact .inl ⟨rfl, rfl⟩
  · exact .inr ⟨hc, hbit, rfl, rfl⟩
  · exact .inr ⟨hc, hbit, rfl, rfl⟩
  · exact .inl ⟨rfl, rfl⟩

/-- Settles O45: the host's moves leave CRCR alone, and the block's write it over a frame only. -/
theorem crcRegistersWrittenOnlyByMeasureCrc : Obligations.CrcRegistersWrittenOnlyByMeasureCrc := by
  intro s t h hstep hreset hchanged
  have hnot : ¬ (t.crcCalc = s.crcCalc ∧ t.crcRecv = s.crcRecv) := not_and_or.mpr hchanged
  cases move_of_step hstep with
  | observes e => exact absurd ⟨rfl, rfl⟩ hnot
  | refuses r e => exact absurd ⟨rfl, rfl⟩ hnot
  | stores off v e _ => exact absurd ⟨storeAt_crcCalc off v _, storeAt_crcRecv off v _⟩ hnot
  | resets e hpending => exact absurd (hreset.symm.trans hpending) Bool.false_ne_true
  | issues c e _ => exact absurd ⟨issue_crcCalc c _, issue_crcRecv c _⟩ hnot
  | runs e hbusy =>
    rcases blockMove_stat_crc { s with env := e } with hseq | hseq | ⟨err, hseq⟩ | ⟨-, hkept⟩
    · rw [blockMove_trigger hseq] at hnot
      exact absurd ⟨beginMeasure_crcCalc _, beginMeasure_crcRecv _⟩ hnot
    · obtain ⟨c, hcur⟩ := measure_of_evaluate (inv_setEnv h e) hbusy hseq
      rw [blockMove_evaluate hcur hseq] at hnot ⊢
      obtain ⟨rfl, hbit, hcalc, hrecv⟩ := (evaluateFrame_crc c { s with env := e }).resolve_left hnot
      exact ⟨hcur, hseq, hbit, hcalc, hrecv⟩
    · rw [blockMove_final hseq] at hnot
      exact absurd ⟨rfl, rfl⟩ hnot
    · exact absurd hkept hnot

/-! ### DEVSTAT -/

theorem statusXfer_of_isStatusXfer {x : Xfer} {again : Bool} (h : isStatusXfer x = some again) :
    x = .statusWrite again ∨ x = .statusRead again := by
  cases x <;> cases h
  · exact .inl rfl
  · exact .inr rfl

/-- A received byte goes to DEVSTAT exactly in a status read (R165). -/
theorem receiveByte_devstat (x : Xfer) (i : Nat) (s : State) :
    (receiveByte x i s).devstat = s.devstat ∨
      ((∃ again, x = .statusRead again) ∧ ∃ d, (receiveByte x i s).devstat = d ∧
        (receiveByte x i s).trace = s.trace ++ [.rx d (readAck i (xferLen s x))]) := by
  rcases receiveByte_cases x i s with ⟨d, -, htrace, -, hdev, -⟩ | ⟨-, -, -, hdev, -⟩ | ⟨-, -, -, hdev, -⟩ | ⟨-, -, -, hdev, -⟩
  · cases x with
    | statusRead again => exact .inr ⟨⟨again, rfl⟩, d, hdev, htrace⟩
    | _ => exact .inl hdev
  · exact .inl hdev
  · exact .inl hdev
  · exact .inl hdev

/-- The moves that can write DEVSTAT. -/
theorem blockMove_devstat_cases (s : State) : (blockMove s).devstat = s.devstat ∨
    (∃ x i, s.seq = .data x i ∧ blockMove s = receiveByte x i s) ∨
    (∃ x, s.seq = .stop x false ∧ blockMove s = closeFailed x s) ∨ s.seq = .evaluate := by
  cases hseq : s.seq with
  | idle => simp [blockMove, hseq]
  | start x => simp only [blockMove, hseq]; split <;> simp
  | address x => simp [blockMove, hseq]
  | data x i => cases hdir : x.dir <;> simp [blockMove, hseq, hdir]
  | stop x ok => cases ok <;> simp [blockMove, hseq]
  | settle w => simp [blockMove, hseq]
  | ticking w => simp [blockMove, hseq]
  | evaluate => simp
  | final e => simp [blockMove, hseq]

theorem evaluateFrame_devstat (c : Bool) (s : State) : (evaluateFrame c s).devstat = s.rx[0] := by
  rcases evaluateFrame_cases c s with ⟨-, h⟩ | ⟨-, -, -, h⟩ | ⟨-, -, -, h⟩ | ⟨-, -, h⟩ <;> rw [h] <;> rfl

/-- The STOP of a failed transaction writes DEVSTAT for a status read under AS_ZERO (R165, R167). -/
theorem closeFailed_devstat (x : Xfer) (s : State) : (closeFailed x s).devstat = s.devstat ∨
    ((∃ again, isStatusXfer x = some again) ∧ s.cfg.statusFailPolicy = .asZero ∧ (closeFailed x s).devstat = 0) := by
  rcases closeFailed_cases s x with ⟨again, hstatus, h⟩ | ⟨-, h⟩ <;> rw [h]
  · rcases absorbFailure_cases x (onStatus s again) s with ⟨-, -, hdev⟩ | ⟨hpolicy, -, hdev⟩
    · exact .inl hdev
    · exact .inr ⟨⟨again, hstatus⟩, hpolicy, hdev⟩
  · exact .inl (closeXfer_devstat _ _ _ s)

/-- A transaction of a status read runs under a command that reads the status (R165). -/
theorem statusCmd_of_own {s : State} {c : HostCmd} {again : Bool} (hcur : s.cur = some c)
    (hown : ownsXfer c (.statusRead again) = true) : s.cur = some .statusRead ∨ s.cur = some .initializeCmd := by
  rw [hcur]
  cases c <;> simp [ownsXfer] at hown ⊢

/-- Settles O46: the host's moves leave DEVSTAT alone, and the block's write it where a status byte comes in,
where a status read fails under AS_ZERO, and over a frame. -/
theorem devstatWrittenByStatusAndFrame : Obligations.DevstatWrittenByStatusAndFrame := by
  intro s t h hstep hreset hchanged
  cases move_of_step hstep with
  | observes e => exact absurd rfl hchanged
  | refuses r e => exact absurd rfl hchanged
  | stores off v e _ => exact absurd (storeAt_devstat off v _) hchanged
  | resets e hpending => exact absurd (hreset.symm.trans hpending) Bool.false_ne_true
  | issues c e _ => exact absurd (issue_devstat c _) hchanged
  | runs e hbusy =>
    obtain ⟨c, hcur, hfits⟩ := cur_of_busy h hbusy
    rcases (blockMove_devstat_cases { s with env := e }).resolve_left hchanged with
      ⟨x, i, (hseq : s.seq = .data x i), hmove⟩ | ⟨x, (hseq : s.seq = .stop x false), hmove⟩ | hseq
    · rw [hmove] at hchanged ⊢
      obtain ⟨⟨again, rfl⟩, d, hdev, htrace⟩ := (receiveByte_devstat x i _).resolve_left hchanged
      have hlast : ¬ i + 1 < 1 := Nat.not_lt.mpr (Nat.le_add_left 1 i)
      rw [readAck, xferLen, if_neg hlast] at htrace
      rw [hseq] at hfits
      exact .inl ⟨statusCmd_of_own hcur hfits, .inl ⟨again, i, d, hseq, hdev, htrace⟩⟩
    · rw [hmove] at hchanged ⊢
      obtain ⟨⟨again, hstatus⟩, hpolicy, hdev⟩ := (closeFailed_devstat x _).resolve_left hchanged
      rw [hseq] at hfits
      exact .inl ⟨statusCmd_of_own hcur (own_statusRead hfits hstatus),
        .inr ⟨x, again, statusXfer_of_isStatusXfer hstatus, hseq, hpolicy, hdev⟩⟩
    · obtain ⟨crcEn, hmeasure⟩ := measure_of_evaluate (inv_setEnv h e) hbusy hseq
      rw [blockMove_evaluate hmeasure hseq]
      exact .inr ⟨⟨crcEn, hmeasure⟩, hseq, evaluateFrame_devstat crcEn _⟩

/-! ### The FSM -/

@[simp] theorem finished_fsm (t : Stat) (e : ErrCode) : (t.finished e).fsm = t.fsm := rfl

theorem issue_fsm (c : HostCmd) (s : State) : (issue c s).stat.fsm = s.stat.fsm := by
  unfold issue
  split <;> rfl

/-- MEASURE starts from any state but UNINITIALIZED (R177, R179). -/
theorem beginMeasure_fsm (s : State) : (beginMeasure s).stat.fsm = s.stat.fsm ∨
    (s.stat.fsm ≠ .uninitialized ∧ (beginMeasure s).stat.fsm = .measuring) := by
  unfold beginMeasure
  split
  · exact .inl rfl
  · next h => exact .inr ⟨h, rfl⟩

/-- A frame leads to READY with NONE, or to CALIBRATED with one of its two errors (R181, R182, R184). -/
theorem evaluateFrame_fsm (c : Bool) (s : State) :
    ((evaluateFrame c s).stat.err = .none ∧ (evaluateFrame c s).stat.fsm = .ready) ∨
    (((evaluateFrame c s).stat.err = .deviceBusy ∨ (evaluateFrame c s).stat.err = .integrity) ∧
      (evaluateFrame c s).stat.fsm = .calibrated) := by
  rcases evaluateFrame_cases c s with ⟨-, h⟩ | ⟨-, -, -, h⟩ | ⟨-, -, -, h⟩ | ⟨-, -, h⟩ <;> rw [h]
  · exact .inr ⟨.inl rfl, rfl⟩
  · exact .inr ⟨.inr rfl, rfl⟩
  · exact .inl ⟨rfl, rfl⟩
  · exact .inl ⟨rfl, rfl⟩

/-- Settles O47: the host's moves but reset leave the FSM alone, and the block's change it at MEASURE's first
step, over a frame, and at a final step. -/
theorem fsmTransitions : Obligations.FsmTransitions := by
  intro s t h hstep hchanged
  cases move_of_step hstep with
  | observes e => exact absurd rfl hchanged
  | refuses r e => exact absurd rfl hchanged
  | stores off v e _ => exact absurd (congrArg Stat.fsm (storeAt_stat off v _)) hchanged
  | resets e hpending => exact .inl ⟨hpending, rfl⟩
  | issues c e _ => exact absurd (issue_fsm c _) hchanged
  | runs e hbusy =>
    refine .inr ?_
    have hinv := inv_setEnv h e
    rcases blockMove_stat_crc { s with env := e } with hseq | hseq | ⟨err, hseq⟩ | ⟨hstat, -⟩
    · obtain ⟨c, hcur⟩ := measure_of_trigger hinv hbusy hseq
      rw [blockMove_trigger hseq] at hchanged ⊢
      obtain ⟨huninit, hmeasuring⟩ := (beginMeasure_fsm _).resolve_left hchanged
      have hnot : s.stat.fsm ≠ .measuring := fsm_ne_measuring h (by rw [hcur, hseq]; rfl)
      have hstart : s.stat.fsm = .calibrated ∨ s.stat.fsm = .ready := by
        cases hfsm : s.stat.fsm <;> simp_all
      exact .inr (.inr (.inr (.inr ⟨⟨c, hcur⟩, .inl ⟨hseq, hstart, hmeasuring⟩⟩)))
    · obtain ⟨c, hcur⟩ := measure_of_evaluate hinv hbusy hseq
      rw [blockMove_evaluate hcur hseq]
      refine .inr (.inr (.inr (.inr ⟨⟨c, hcur⟩, .inr ?_⟩)))
      rcases evaluateFrame_fsm c { s with env := e } with ⟨herr, hfsm⟩ | ⟨herr, hfsm⟩
      · exact .inl ⟨hseq, herr, hfsm⟩
      · exact .inr (.inl ⟨hseq, herr, hfsm⟩)
    · obtain ⟨c, (hcur : s.cur = some c), hfits⟩ := cur_of_busy hinv hbusy
      rw [blockMove_final hseq] at hchanged ⊢
      rw [hseq] at hfits
      cases c with
      | busWrite | busRead | statusRead =>
        exact absurd (by simp [finalFsm, hcur]) hchanged
      | initializeCmd =>
        cases err <;> simp [fits, ownsFinal] at hfits
        case none => exact .inl ⟨hcur, hseq, by simp [finalFsm, hcur, initFsm]⟩
        case transport => exact .inr (.inr (.inl ⟨hcur, hseq, by simp [finalFsm, hcur, initFsm, teFsm]⟩))
        case initNotReady => exact .inr (.inl ⟨hcur, hseq, by simp [finalFsm, hcur, initFsm]⟩)
      | softReset => exact .inr (.inr (.inr (.inl ⟨hcur, ⟨err, hseq⟩, by simp [finalFsm, hcur]⟩)))
      | measure c =>
        cases err <;> simp [fits, ownsFinal] at hfits
        exact .inr (.inr (.inr (.inr ⟨⟨c, hcur⟩, .inr (.inr (.inr ⟨hseq, by simp [finalFsm, hcur, teFsm]⟩))⟩)))
    · exact absurd (congrArg Stat.fsm hstat) hchanged

/-! ### The end of a command -/

/-- BUSY falls with `finish`, which sets DONE and is no bus event (R236). -/
theorem blockMove_ends {s : State} (h : Inv s) (hbusy : s.stat.busy = true)
    (hends : (blockMove s).stat.busy = false) :
    (blockMove s).stat.done = true ∧ (blockMove s).trace = s.trace := by
  rcases blockMove_stat_crc s with hseq | hseq | ⟨err, hseq⟩ | ⟨hstat, -⟩
  · rw [blockMove_trigger hseq, beginMeasure] at hends ⊢
    split
    · exact ⟨rfl, rfl⟩
    · next hcalibrated =>
      rw [if_neg hcalibrated] at hends
      exact absurd (hbusy.symm.trans hends) Bool.false_ne_true.symm
  · obtain ⟨c, hcur⟩ := measure_of_evaluate h hbusy hseq
    rw [blockMove_evaluate hcur hseq]
    rcases evaluateFrame_cases c s with ⟨-, hend⟩ | ⟨-, -, -, hend⟩ | ⟨-, -, -, hend⟩ | ⟨-, -, hend⟩ <;> rw [hend] <;>
      exact ⟨rfl, rfl⟩
  · rw [blockMove_final hseq]
    exact ⟨rfl, rfl⟩
  · rw [hstat] at hends
    exact absurd (hbusy.symm.trans hends) Bool.false_ne_true.symm

/-- Settles O48: what a final step sets, and what the invariant says of the block it leaves. -/
theorem busyEndsWithDone : Obligations.BusyEndsWithDone := by
  intro s t h hstep hreset hbusy hidle
  have ht : Inv t := invariantKeptByEveryStep s t h hstep
  have hseq := seq_of_idle ht hidle
  have hbus : t.bus = .idle := by rw [ht.busPhase, hseq]; rfl
  have hends : t.stat.done = true ∧ t.trace = s.trace := by
    cases move_of_step hstep with
    | observes e => exact absurd (hbusy.symm.trans hidle) Bool.false_ne_true.symm
    | refuses r e => exact absurd (hbusy.symm.trans hidle) Bool.false_ne_true.symm
    | stores off v e hnotBusy => exact absurd (hbusy.symm.trans hnotBusy) Bool.false_ne_true.symm
    | resets e hpending => exact absurd (hreset.symm.trans hpending) Bool.false_ne_true
    | issues c e hnotBusy => exact absurd (hbusy.symm.trans hnotBusy) Bool.false_ne_true.symm
    | runs e _ => exact blockMove_ends (inv_setEnv h e) hbusy hidle
  exact ⟨hends.1, ht.result hends.1, cur_of_idle ht hidle, hseq, hbus, hends.2⟩

/-- Settles O49: the invariant holds where the run has come to, and says it of every idle block. -/
theorem noTransactionLeftOpen : Obligations.NoTransactionLeftOpen := by
  intro s t h hreach hidle
  have ht : Inv t := reaches_induction invariantKeptByEveryStep h hreach
  have hseq := seq_of_idle ht hidle
  rw [ht.busPhase, ht.framing, hseq]
  exact ⟨rfl, rfl⟩

end Sys2Proof.Proofs
end

section
/-! The statements about one byte on the bus: what is sent, and what a stalled device does to it. -/

namespace Sys2Proof.Proofs

open Sys2Proof.Machine Sys2Proof.Laws

/-! ### The answer to a sent byte -/

theorem timesOut_eq_timeoutReached (s : State) :
    timesOut s = timeoutReached s.cfg.busTimeout (s.stallTicks + 1) := by
  cases h : s.cfg.busTimeout <;> simp [timesOut, timeoutReached, h]

theorem transmit_eq_byteAnswered (x : Xfer) (b : Byte) (q : Seq) (s : State) :
    transmit x b q s = byteAnswered x b q (drawTx s).1 (drawTx s).2 := by
  unfold transmit
  cases (drawTx s).1 with
  | ack => rfl
  | nack => rfl
  | fail => rfl
  | stall => simp only [answerTx, stallByte, timesOut_eq_timeoutReached]; rfl

/-- The address byte as a number (R77). -/
theorem addressByte_eq_ofNat (a : BusAddr) (d : Dir) :
    addressByte a d = BitVec.ofNat 8 (2 * a.toNat + if d = .read then 1 else 0) := by
  cases d <;> revert a <;> decide

/-- Settles O18. -/
theorem addressByteSent : Obligations.AddressByteSent := by
  intro s x a hseq hlen
  rw [exec_busAddressByte a hseq, dataOrStop_lt hlen, addressByte_eq_ofNat, transmit_eq_byteAnswered]

/-- Data byte `i` of a transaction of `n + 1`, answered: the next byte follows, or STOP. -/
theorem sendByte_eq_byteAnswered {x : Xfer} {s : State} {n : Nat} (b : Byte) (i : Nat)
    (hlen : xferLen s x = n + 1) :
    sendByte x b i s = byteAnswered x b (if i < n then .data x (i + 1) else .stop x true)
      (drawTx s).1 (drawTx s).2 := by
  simp only [sendByte, transmit_eq_byteAnswered, hlen, dataOrStop, Nat.add_lt_add_iff_right]

/-- Settles O19: each row sends the byte of its constant that its position names. -/
theorem deviceCommandBytesSent : Obligations.DeviceCommandBytesSent := by
  intro s
  refine ⟨fun i _ hseq => ?init, fun i _ hseq => ?trigger, fun hseq => ?reset, fun again hseq => ?status⟩
  case init =>
    rw [exec_devInit hseq, sendByte_eq_byteAnswered (n := 2) _ _ rfl]
    rfl
  case trigger =>
    rw [exec_devMeasure hseq, sendByte_eq_byteAnswered (n := 2) _ _ rfl]
    rfl
  case reset =>
    rw [exec_devSoftReset hseq, sendByte_eq_byteAnswered (n := 0) _ _ rfl]
    rfl
  case status =>
    rw [exec_devStatus hseq, sendByte_eq_byteAnswered (n := 0) _ _ rfl]
    rfl

/-! ### Stalls -/

/-- `k` stalls are listed before `l` where the device answers a sent byte, or before `m` where it sends one. -/
def stallEnv (e : Env) (sends : Bool) (k : Nat) (l : List TxAnswer) (m : List RxAnswer) : Env :=
  if sends then { e with txAnswers := List.replicate k .stall ++ l, rxAnswers := m }
  else { e with txAnswers := l, rxAnswers := List.replicate k .stall ++ m }

/-- `s` after `n` stalled ticks, with `k` more to come. -/
def stalled (s : State) (sends : Bool) (n k : Nat) (l : List TxAnswer) (m : List RxAnswer) : State :=
  { s with stallTicks := n, env := stallEnv s.env sends k l m }

/-- A byte of `x` that the block sends is next, or else one that it receives. -/
def byteNext (s : State) (x : Xfer) (sends : Bool) : Prop :=
  if sends then s.seq = .address x ∨ ∃ i, s.seq = .data x i ∧ x.dir = .write
  else ∃ i, s.seq = .data x i ∧ x.dir = .read

theorem blockMove_stalled {s : State} {x : Xfer} {sends : Bool} (hnext : byteNext s x sends) (n k : Nat)
    (l : List TxAnswer) (m : List RxAnswer) :
    blockMove (stalled s sends n (k + 1) l m) = stallByte x (stalled s sends n k l m) := by
  cases sends with
  | true =>
    rcases hnext with hseq | ⟨i, hseq, hdir⟩
    · simp [blockMove, stalled, stallEnv, hseq, transmit, drawTx, answerTx, List.replicate_succ]
    · simp [blockMove, stalled, stallEnv, hseq, hdir, sendByte, transmit, drawTx, answerTx, List.replicate_succ]
  | false =>
    obtain ⟨i, hseq, hdir⟩ := hnext
    simp [blockMove, stalled, stallEnv, hseq, hdir, receiveByte, drawRx, answerRx, List.replicate_succ]

theorem fits_of_byteNext {s : State} {c : HostCmd} {x : Xfer} {sends : Bool} (hnext : byteNext s x sends)
    (hown : ownsXfer c x = true) : fits c s.seq = true := by
  cases sends with
  | true => rcases hnext with hseq | ⟨i, hseq, -⟩ <;> rw [hseq] <;> exact hown
  | false =>
    obtain ⟨i, hseq, -⟩ := hnext
    rw [hseq]
    exact hown

section
variable {s : State} {c : HostCmd} {x : Xfer} {sends : Bool} {l : List TxAnswer} {m : List RxAnswer}

/-- One stalled tick. -/
theorem step_stalled (hrun : Running c s) (hown : ownsXfer c x = true) (hnext : byteNext s x sends) (n k : Nat) :
    step (stalled s sends n (k + 1) l m) = .next (stallByte x (stalled s sends n k l m)) := by
  obtain ⟨hundisturbed, hbusy, hcur⟩ := hrun
  have hrun : Running c (stalled s sends n (k + 1) l m) := by
    refine ⟨?_, hbusy, hcur⟩
    cases sends <;> exact hundisturbed
  rw [hrun.step (fits_of_byteNext hnext hown), blockMove_stalled hnext]

/-- Stalls short of the timeout leave the block where it is. -/
theorem runSteps_stalled (hrun : Running c s) (hown : ownsXfer c x = true) (hnext : byteNext s x sends)
    {j : Nat} (k : Nat) (htimeout : timeoutReached s.cfg.busTimeout j = false) :
    runSteps j (stalled s sends 0 (j + k) l m) = .next (stalled s sends j k l m) := by
  induction j generalizing k with
  | zero => rw [Nat.zero_add]; rfl
  | succ j ih =>
    have hearlier : timeoutReached s.cfg.busTimeout j = false := by
      cases hcfg : s.cfg.busTimeout with
      | none => rfl
      | some limit =>
        simp only [hcfg, timeoutReached, decide_eq_false_iff_not] at htimeout ⊢
        omega
    have hlast : step (stalled s sends j (k + 1) l m) = .next (stalled s sends (j + 1) k l m) := by
      rw [step_stalled hrun hown hnext, stallByte, timesOut_eq_timeoutReached, if_neg]
      · rfl
      · exact Bool.eq_false_iff.mp htimeout
    rw [show j + 1 + k = j + (k + 1) by omega]
    exact runSteps_snoc (ih (k + 1) hearlier) hlast

end

/-- Settles O20: short of BUS_TIMEOUT nothing moves, and the tick that reaches it is a FAIL. -/
theorem stallHoldsUntilTimeout : Obligations.StallHoldsUntilTimeout := by
  intro s c x k l m hundisturbed hbusy hcur hown hticks hanswers
  have hrun : Running c s := ⟨hundisturbed, hbusy, hcur⟩
  obtain ⟨sends, hnext, hs, henv⟩ : ∃ sends, byteNext s x sends ∧ s = stalled s sends 0 k l m ∧
      stallEnv s.env sends 0 l m = { s.env with txAnswers := l, rxAnswers := m } := by
    rcases hanswers with ⟨hnext, htx, hrx⟩ | ⟨hnext, htx, hrx⟩
    · refine ⟨true, hnext, ?_, rfl⟩
      rw [stalled, stallEnv, if_pos rfl, ← htx, ← hrx, ← hticks]
    · refine ⟨false, hnext, ?_, rfl⟩
      rw [stalled, stallEnv, if_neg (by decide), ← htx, ← hrx, ← hticks]
  constructor
  · intro hnone
    have hstalls := runSteps_stalled (l := l) (m := m) (j := k) hrun hown hnext 0 (by rw [hnone]; rfl)
    rw [Nat.add_zero, ← hs, stalled, henv] at hstalls
    exact hstalls
  · intro hlimit hpos
    obtain ⟨j, rfl⟩ := Nat.exists_eq_add_one.mpr hpos
    have hstalls := runSteps_stalled (l := l) (m := m) (j := j) hrun hown hnext 1
      (by rw [hlimit]; simp [timeoutReached])
    have hlast := step_stalled (l := l) (m := m) hrun hown hnext j 0
    rw [stallByte, timesOut_eq_timeoutReached, if_pos (by simp [stalled, hlimit, timeoutReached])] at hlast
    rw [← hs] at hstalls
    rw [runSteps_snoc hstalls hlast, failByte, stalled, henv, ← hticks]

end Sys2Proof.Proofs
end

section
/-! Whole transactions and settle waits of an undisturbed block, as runs: what the steps from START to STOP,
and from WAIT to the last tick, leave together. -/

namespace Sys2Proof.Proofs

open Sys2Proof.Machine Sys2Proof.Laws

/-- A run goes on where its first part has come to. -/
theorem runSteps_add {m n : Nat} {s t : State} {o : Host.Outcome State Fault Refusal}
    (h : runSteps m s = .next t) (g : runSteps n t = o) : runSteps (m + n) s = o := by
  induction m generalizing s with
  | zero => cases h; rw [Nat.zero_add, g]
  | succ m ih =>
    obtain ⟨v, hv, h⟩ := runSteps_cases h
    rw [Nat.succ_add, runSteps_succ hv]
    exact ih h

theorem runSteps_one {s t : State} (h : step s = .next t) : runSteps 1 s = .next t :=
  runSteps_succ h

/-! ### Bytes sent and acknowledged -/

/-- The data bytes of a write transaction (R72, R79). -/
def dataBytes (s : State) : Xfer → List Byte
  | .hostWrite => s.tx.toList.take s.len.toNat
  | .statusWrite _ => statusBytes
  | .initWrite => initBytes
  | .resetWrite => softResetBytes
  | .trigger => measureBytes
  | _ => []

/-- The bytes the block sends in a transaction: the address byte, and the data bytes of a write. -/
def sentBytes (s : State) (x : Xfer) : List Byte := addressByte s.devAddr x.dir :: dataBytes s x

/-- Where a transaction stands when `k` of its bytes are acknowledged. -/
def sentPos (s : State) (x : Xfer) : Nat → Seq
  | 0 => .address x
  | k + 1 => dataOrStop x k (xferLen s x)

theorem length_dataBytes {s : State} {x : Xfer} (hdir : x.dir = .write) :
    (dataBytes s x).length = xferLen s x := by
  cases x with
  | hostWrite =>
    have := s.len.isLt
    simp only [dataBytes, xferLen, List.length_take, Vector.length_toList]
    omega
  | hostRead | statusRead _ | frameRead _ => cases hdir
  | statusWrite _ | initWrite | resetWrite | trigger => rfl

theorem dataBytes_of_read {s : State} {x : Xfer} (hdir : x.dir = .read) : dataBytes s x = [] := by
  cases x with
  | hostRead | statusRead _ | frameRead _ => rfl
  | hostWrite | statusWrite _ | initWrite | resetWrite | trigger => cases hdir

/-- The list of a write's data bytes is what it sends one by one. -/
theorem dataByte_eq_getD {s : State} {x : Xfer} {i : Nat} (hdir : x.dir = .write) (hi : i < xferLen s x) :
    dataByte s x i = (dataBytes s x).getD i 0 := by
  cases x with
  | hostWrite =>
    have hi : i < s.len.toNat := hi
    simp only [dataByte, hostByte, dataBytes, List.getD_eq_getElem?_getD, List.getElem?_take_of_lt hi]
  | hostRead | statusRead _ | frameRead _ => cases hdir
  | statusWrite _ | initWrite | resetWrite | trigger => rfl

/-- The move that sends the next byte of a transaction. -/
theorem blockMove_sends {s : State} {x : Xfer} {k : Nat} (hk : k < (sentBytes s x).length)
    (hseq : s.seq = sentPos s x k) :
    blockMove s = transmit x ((sentBytes s x).getD k 0) (sentPos s x (k + 1)) s := by
  cases k with
  | zero => simp only [blockMove, hseq, sentPos, sentBytes, List.getD_cons_zero]
  | succ i =>
    have hi : i < (dataBytes s x).length := Nat.lt_of_succ_lt_succ hk
    cases hdir : x.dir with
    | read => simp [dataBytes_of_read hdir] at hi
    | write =>
      rw [length_dataBytes hdir] at hi
      simp only [blockMove, hseq, sentPos, dataOrStop_lt hi, hdir, sendByte, sentBytes, List.getD_cons_succ,
        dataByte_eq_getD hdir hi]

theorem fits_sentPos {s : State} {c : HostCmd} {x : Xfer} (hown : ownsXfer c x = true) (k : Nat) :
    fits c (sentPos s x k) = true := by
  cases k with
  | zero => exact hown
  | succ i =>
    rcases dataOrStop_cases x i (xferLen s x) with ⟨-, h⟩ | ⟨-, h⟩ <;> rw [sentPos, h] <;> exact hown

theorem transmit_ack {x : Xfer} {b : Byte} {q : Seq} {s : State} {l : List TxAnswer}
    (htx : s.env.txAnswers = .ack :: l) : transmit x b q s =
      { s with trace := s.trace ++ [.tx b .ack], seq := q, stallTicks := 0, env := { s.env with txAnswers := l } } := by
  simp only [transmit, drawTx, htx, answerTx]

theorem transmit_bad {x : Xfer} {b : Byte} {q : Seq} {s : State} {noAck : Bool} {l : List TxAnswer}
    (htx : s.env.txAnswers = badAnswer noAck :: l) : transmit x b q s =
      { s with trace := s.trace ++ [badEvent b noAck], seq := .stop x false, stallTicks := 0
               env := { s.env with txAnswers := l } } := by
  cases noAck <;> simp only [transmit, drawTx, htx, badAnswer, badEvent, answerTx, failByte] <;> rfl

/-- `s` after its transaction's START and `k` acknowledged bytes. -/
def acked (x : Xfer) (k : Nat) (l : List TxAnswer) (s : State) : State :=
  { s with
    bus := .inTransaction
    trace := s.trace ++ .start :: ((sentBytes s x).take k).map (.tx · .ack)
    seq := sentPos s x k
    stallTicks := 0
    env := { s.env with txAnswers := l } }

/-- `s` after its transaction's START, `k` acknowledged bytes, and one that ended it. -/
def rejected (x : Xfer) (k : Nat) (noAck : Bool) (l : List TxAnswer) (s : State) : State :=
  { s with
    bus := .inTransaction
    trace := s.trace ++ .start :: ((sentBytes s x).take k).map (.tx · .ack) ++
      [badEvent ((sentBytes s x).getD k 0) noAck]
    seq := .stop x false
    stallTicks := 0
    env := { s.env with txAnswers := l } }

@[simp] theorem xferLen_acked (x : Xfer) (k : Nat) (l : List TxAnswer) (s : State) (y : Xfer) :
    xferLen (acked x k l s) y = xferLen s y := xferLen_congr rfl y

section
variable {s : State} {c : HostCmd} {x : Xfer} (hrun : Running c s) (hown : ownsXfer c x = true)
include hrun hown

/-- One more byte is acknowledged. -/
theorem step_acked {k : Nat} (hk : k < (sentBytes s x).length) (l : List TxAnswer) :
    step (acked x k (.ack :: l) s) = .next (acked x (k + 1) l s) := by
  have hrun : Running c (acked x k (.ack :: l) s) := hrun
  have htake : (sentBytes s x).take (k + 1) = (sentBytes s x).take k ++ [(sentBytes s x).getD k 0] := by
    rw [List.getD_eq_getElem _ _ hk, List.take_append_getElem hk]
  rw [hrun.step (fits_sentPos hown k), blockMove_sends (s := acked x k (.ack :: l) s) (x := x) hk rfl,
    transmit_ack (l := l) rfl]
  simp only [acked, htake, List.map_append, List.append_assoc, List.cons_append]
  rfl

/-- The bytes of a transaction are acknowledged one by one. -/
theorem runSteps_acked {k : Nat} (hk : k ≤ (sentBytes s x).length) (l : List TxAnswer)
    (htx : s.env.txAnswers = List.replicate k .ack ++ l) :
    runSteps k (openXfer x s) = .next (acked x k l s) := by
  induction k generalizing l with
  | zero =>
    have htx : s.env.txAnswers = l := htx
    subst htx
    rfl
  | succ k ih =>
    rw [List.replicate_succ', List.append_assoc] at htx
    exact runSteps_snoc (ih (Nat.le_of_succ_le hk) (.ack :: l) htx) (step_acked hrun hown hk l)

/-- A byte that is not acknowledged, or answered FAIL, after `k` that are, comes to STOP (R104). -/
theorem runSteps_rejected {k : Nat} (hk : k < (sentBytes s x).length) {noAck : Bool} {l : List TxAnswer}
    (htx : s.env.txAnswers = List.replicate k .ack ++ badAnswer noAck :: l) :
    runSteps (k + 1) (openXfer x s) = .next (rejected x k noAck l s) := by
  have hbad : Running c (acked x k (badAnswer noAck :: l) s) := hrun
  refine runSteps_snoc (runSteps_acked hrun hown hk.le _ htx) ?_
  rw [hbad.step (fits_sentPos hown k), blockMove_sends (s := acked x k (badAnswer noAck :: l) s) (x := x) hk rfl,
    transmit_bad (l := l) rfl]
  rfl

end

/-! ### Write transactions -/

/-- `s` after a write transaction whose every byte was acknowledged (R75, R104). -/
def written (x : Xfer) (l : List TxAnswer) (s : State) : State :=
  { s with
    bus := .idle
    trace := s.trace ++ writeTrace s.devAddr (dataBytes s x)
    seq := afterXfer s x
    stallTicks := 0
    env := { s.env with txAnswers := l } }

/-- The STOP of a transaction that succeeded. -/
theorem step_stop_ok {s : State} {c : HostCmd} {x : Xfer} (hrun : Running c s) (hown : ownsXfer c x = true)
    (hseq : s.seq = .stop x true) : step s = .next (closeXfer x true (afterXfer s x) s) := by
  rw [hrun.step (by rw [hseq]; exact hown)]
  simp only [blockMove, hseq, if_true]

theorem step_start {s : State} {c : HostCmd} {x : Xfer} (hrun : Running c s) (hown : ownsXfer c x = true)
    (hseq : s.seq = .start x) (hx : x ≠ .trigger) : step s = .next (openXfer x s) := by
  rw [hrun.step (by rw [hseq]; exact hown)]
  simp only [blockMove, hseq, if_neg hx]

/-- Where a transaction leads does not depend on what its bytes changed, RX apart. -/
theorem runSteps_written {s : State} {c : HostCmd} {x : Xfer} (hrun : Running c s) (hown : ownsXfer c x = true)
    (hdir : x.dir = .write) {l : List TxAnswer}
    (htx : s.env.txAnswers = List.replicate (xferLen s x + 1) .ack ++ l) :
    runSteps (xferLen s x + 2) (openXfer x s) = .next (written x l s) := by
  have hlen : (sentBytes s x).length = xferLen s x + 1 := by
    rw [sentBytes, List.length_cons, length_dataBytes hdir]
  have hrunStop : Running c (acked x (xferLen s x + 1) l s) := hrun
  have hseq : (acked x (xferLen s x + 1) l s).seq = .stop x true := dataOrStop_ge le_rfl
  refine runSteps_snoc (runSteps_acked hrun hown hlen.ge l htx) ?_
  have hafter : afterXfer (acked x (xferLen s x + 1) l s) x = afterXfer s x := by cases x <;> rfl
  rw [step_stop_ok hrunStop hown hseq, hafter]
  simp only [closeXfer, acked, written, writeTrace, List.take_of_length_le hlen.le, if_true]
  simp [sentBytes, hdir]

/-- A write transaction from its START position on. -/
theorem runSteps_write {s : State} {c : HostCmd} {x : Xfer} (hrun : Running c s) (hown : ownsXfer c x = true)
    (hdir : x.dir = .write) (hseq : s.seq = .start x) (hx : x ≠ .trigger) {l : List TxAnswer}
    (htx : s.env.txAnswers = List.replicate (xferLen s x + 1) .ack ++ l) :
    runSteps (xferLen s x + 3) s = .next (written x l s) :=
  (runSteps_succ (step_start hrun hown hseq hx)).trans (runSteps_written hrun hown hdir htx)

/-! ### Bytes received -/

/-- The events of received bytes, the first of them byte 0 of `n` (R76, R110). -/
def rxEvents (n : Nat) (bytes : List Byte) : List BusEvent :=
  bytes.zipIdx.map fun p => .rx p.1 (readAck p.2 n)

theorem rxEvents_snoc (n : Nat) (bytes : List Byte) (b : Byte) :
    rxEvents n (bytes ++ [b]) = rxEvents n bytes ++ [.rx b (readAck bytes.length n)] := by
  simp [rxEvents, List.zipIdx_append]

/-- As long as bytes are to come, the block acknowledges (R76). -/
theorem rxEvents_of_lt {n : Nat} {bytes : List Byte} (hlen : bytes.length < n) :
    rxEvents n bytes = bytes.map fun d => .rx d .ack := by
  induction bytes using List.reverseRecOn with
  | nil => rfl
  | append_singleton bytes b ih =>
    rw [List.length_append, List.length_singleton] at hlen
    rw [rxEvents_snoc, ih (Nat.lt_of_succ_lt hlen), readAck, if_pos hlen, List.map_append]
    rfl

theorem getElem_received (bytes : List Byte) (rx : Vector Byte 7) {j : Nat} (hj : j < 7) :
    (received bytes rx)[j] = bytes.getD j rx[j] := by
  rw [received, Vector.getElem_ofFn]
  rfl

theorem received_nil (rx : Vector Byte 7) : received [] rx = rx :=
  Vector.ext fun _ hj => getElem_received [] rx hj

/-- A received byte fills the next place of RX (R36). -/
theorem received_snoc (bytes : List Byte) (b : Byte) (rx : Vector Byte 7) :
    received (bytes ++ [b]) rx = (received bytes rx).setIfInBounds bytes.length b := by
  refine Vector.ext fun j hj => ?_
  rw [Vector.getElem_setIfInBounds hj, getElem_received _ _ hj, getElem_received _ _ hj]
  split_ifs with hlast
  · simp [← hlast]
  · rcases Nat.lt_or_gt_of_ne hlast with hgt | hlt
    · rw [List.getD_eq_default _ _ (by simp; omega), List.getD_eq_default _ _ hgt.le]
    · rw [List.getD_append _ _ _ _ hlt]

/-- `s`, past its address byte, after the bytes were received. -/
def readSoFar (x : Xfer) (bytes : List Byte) (m : List RxAnswer) (s : State) : State :=
  { s with
    rx := received bytes s.rx
    devstat := if x.isStatusRead then bytes.getLastD s.devstat else s.devstat
    trace := s.trace ++ rxEvents (xferLen s x) bytes
    seq := dataOrStop x bytes.length (xferLen s x)
    stallTicks := 0
    env := { s.env with rxAnswers := m } }

theorem receiveByte_byte {x : Xfer} {i : Nat} {b : Byte} {s : State} {m : List RxAnswer}
    (hrx : s.env.rxAnswers = .byte b :: m) :
    receiveByte x i s = takeByte x i b { s with env := { s.env with rxAnswers := m } } := by
  simp only [receiveByte, drawRx, hrx, answerRx]

theorem receiveByte_fail {x : Xfer} {i : Nat} {s : State} {m : List RxAnswer}
    (hrx : s.env.rxAnswers = .fail :: m) :
    receiveByte x i s = failByte .device x { s with env := { s.env with rxAnswers := m } } := by
  simp only [receiveByte, drawRx, hrx, answerRx]

/-- The step that receives a byte. -/
theorem step_receive {s : State} {c : HostCmd} {x : Xfer} {i : Nat} (hrun : Running c s)
    (hown : ownsXfer c x = true) (hdir : x.dir = .read) (hseq : s.seq = .data x i) :
    step s = .next (receiveByte x i s) := by
  rw [hrun.step (by rw [hseq]; exact hown)]
  simp only [blockMove, hseq, hdir]

section
variable {s : State} {c : HostCmd} {x : Xfer} (hrun : Running c s) (hown : ownsXfer c x = true)
  (hdir : x.dir = .read)
include hrun hown hdir

/-- One more byte is received. -/
theorem step_readSoFar {bytes : List Byte} (b : Byte) (m : List RxAnswer) (hlen : bytes.length < xferLen s x) :
    step (readSoFar x bytes (.byte b :: m) s) = .next (readSoFar x (bytes ++ [b]) m s) := by
  have hrun : Running c (readSoFar x bytes (.byte b :: m) s) := hrun
  have hlenNow (t : State) (ht : t.len = s.len) : xferLen t x = xferLen s x := xferLen_congr ht x
  rw [step_receive hrun hown hdir (i := bytes.length) (dataOrStop_lt hlen), receiveByte_byte (m := m) rfl]
  simp only [takeByte, readSoFar, received_snoc, rxEvents_snoc, hlenNow, List.length_append, List.length_singleton,
    List.append_assoc]
  cases x.isStatusRead <;> simp

/-- The bytes of a read are received one by one. -/
theorem runSteps_readSoFar {bytes : List Byte} (m : List RxAnswer) (hlen : bytes.length ≤ xferLen s x)
    (hseq : s.seq = dataOrStop x 0 (xferLen s x)) (hticks : s.stallTicks = 0)
    (hrx : s.env.rxAnswers = bytes.map .byte ++ m) :
    runSteps bytes.length s = .next (readSoFar x bytes m s) := by
  induction bytes using List.reverseRecOn generalizing m with
  | nil =>
    have hrx : s.env.rxAnswers = m := hrx
    subst hrx
    simp only [List.length_nil, runSteps_zero, readSoFar, received_nil, List.getLastD_nil, ite_self, rxEvents,
      List.zipIdx_nil, List.map_nil, List.append_nil, ← hseq]
    rw [← hticks]
  | append_singleton bytes b ih =>
    rw [List.length_append, List.length_singleton] at hlen ⊢
    rw [List.map_append, List.append_assoc] at hrx
    exact runSteps_snoc (ih (.byte b :: m) (Nat.le_of_succ_le hlen) hrx) (step_readSoFar hrun hown hdir b m hlen)

end

/-! ### Read transactions -/

/-- `s` after a read transaction that received the bytes (R76, R110). -/
def readOk (x : Xfer) (bytes : List Byte) (l : List TxAnswer) (m : List RxAnswer) (s : State) : State :=
  { s with
    bus := .idle
    rx := received bytes s.rx
    devstat := if x.isStatusRead then bytes.getLastD s.devstat else s.devstat
    trace := s.trace ++ readTrace s.devAddr bytes
    seq := afterXfer { s with rx := received bytes s.rx } x
    stallTicks := 0
    env := { s.env with txAnswers := l, rxAnswers := m } }

/-- `s` after a read transaction's START, its address byte, the bytes, and a FAIL. -/
def readFailed (x : Xfer) (bytes : List Byte) (l : List TxAnswer) (m : List RxAnswer) (s : State) : State :=
  { s with
    bus := .inTransaction
    rx := received bytes s.rx
    devstat := if x.isStatusRead then bytes.getLastD s.devstat else s.devstat
    trace := s.trace ++ [.start, .tx (addressByte s.devAddr .read) .ack] ++
      bytes.map (fun d => .rx d .ack) ++ [.fail .device]
    seq := .stop x false
    stallTicks := 0
    env := { s.env with txAnswers := l, rxAnswers := m } }

/-- The acknowledged address byte of a read. -/
theorem runSteps_addressed {s : State} {c : HostCmd} {x : Xfer} (hrun : Running c s) (hown : ownsXfer c x = true)
    (hseq : s.seq = .start x) (hx : x ≠ .trigger) {l : List TxAnswer} (htx : s.env.txAnswers = .ack :: l) :
    runSteps 2 s = .next (acked x 1 l s) :=
  (runSteps_succ (step_start hrun hown hseq hx)).trans (runSteps_acked hrun hown (k := 1) (Nat.le_add_left _ _) l htx)

section
variable {s : State} {c : HostCmd} {x : Xfer} (hrun : Running c s) (hown : ownsXfer c x = true)
  (hdir : x.dir = .read) (hseq : s.seq = .start x)
include hrun hown hdir hseq

/-- A read transaction from its START position, as far as the bytes have come. -/
theorem runSteps_reading {bytes : List Byte} {l : List TxAnswer} {m : List RxAnswer}
    (hlen : bytes.length ≤ xferLen s x) (htx : s.env.txAnswers = .ack :: l)
    (hrx : s.env.rxAnswers = bytes.map .byte ++ m) :
    runSteps (2 + bytes.length) s = .next (readSoFar x bytes m (acked x 1 l s)) := by
  have hx : x ≠ .trigger := by rintro rfl; cases hdir
  have haddressed : Running c (acked x 1 l s) := hrun
  exact runSteps_add (runSteps_addressed hrun hown hseq hx htx)
    (runSteps_readSoFar haddressed hown hdir m (by rwa [xferLen_acked]) (by rw [xferLen_acked]; rfl) rfl hrx)

/-- A read transaction that receives all its bytes. -/
theorem runSteps_read {bytes : List Byte} {l : List TxAnswer} {m : List RxAnswer}
    (hlen : bytes.length = xferLen s x) (htx : s.env.txAnswers = .ack :: l)
    (hrx : s.env.rxAnswers = bytes.map .byte ++ m) :
    runSteps (xferLen s x + 3) s = .next (readOk x bytes l m s) := by
  have hstop : Running c (readSoFar x bytes m (acked x 1 l s)) := hrun
  have hstopSeq : (readSoFar x bytes m (acked x 1 l s)).seq = .stop x true := by
    rw [readSoFar, xferLen_acked, hlen]
    exact dataOrStop_ge le_rfl
  have hafter : afterXfer (readSoFar x bytes m (acked x 1 l s)) x =
      afterXfer { s with rx := received bytes s.rx } x := by cases x <;> rfl
  have hall : rxEvents (xferLen s x) bytes =
      bytes.zipIdx.map fun p => .rx p.1 (if p.2 + 1 < bytes.length then .ack else .nack) := by
    rw [← hlen]
    rfl
  rw [show xferLen s x + 3 = 2 + bytes.length + 1 by omega]
  refine runSteps_snoc (runSteps_reading hrun hown hdir hseq hlen.le htx hrx) ?_
  rw [step_stop_ok hstop hown hstopSeq, hafter]
  simp only [closeXfer, readSoFar, xferLen_acked, hall, if_true]
  simp [acked, readOk, readTrace, sentBytes, hdir]

/-- A read whose next byte the device answers FAIL comes to STOP (R110). -/
theorem runSteps_readFailed {bytes : List Byte} {l : List TxAnswer} {m : List RxAnswer}
    (hlen : bytes.length < xferLen s x) (htx : s.env.txAnswers = .ack :: l)
    (hrx : s.env.rxAnswers = bytes.map .byte ++ .fail :: m) :
    runSteps (2 + bytes.length + 1) s = .next (readFailed x bytes l m s) := by
  have hnext : Running c (readSoFar x bytes (.fail :: m) (acked x 1 l s)) := hrun
  have hnextSeq : (readSoFar x bytes (.fail :: m) (acked x 1 l s)).seq = .data x bytes.length := by
    rw [readSoFar, xferLen_acked]
    exact dataOrStop_lt hlen
  refine runSteps_snoc (runSteps_reading hrun hown hdir hseq hlen.le htx hrx) ?_
  rw [step_receive hnext hown hdir hnextSeq, receiveByte_fail (m := m) rfl]
  simp only [failByte, readSoFar, xferLen_acked, rxEvents_of_lt hlen]
  simp [acked, readFailed, sentBytes, hdir]

end

/-! ### Settle waits -/

/-- The length of a wait that lasts `e` ticks beyond its minimum (R266). -/
def waitTicks (s : State) (w : Settle) (e : Nat) : Nat := minTicks s.cfg w + e

/-- `s` in its settle wait, with `k` ticks left. -/
def settling (w : Settle) (k : Nat) (es : List Nat) (s : State) : State :=
  { s with
    trace := s.trace ++ [.wait (settleMs w)]
    waitLeft := k
    seq := .ticking w
    env := { s.env with waitExtras := es } }

/-- `s` after its settle wait. -/
def settled (w : Settle) (es : List Nat) (s : State) : State :=
  { s with
    trace := s.trace ++ [.wait (settleMs w)]
    waitLeft := 0
    seq := afterSettle s w
    env := { s.env with waitExtras := es } }

theorem beginWait_eq_settling {s : State} {w : Settle} {q : Seq} {e : Nat} {es : List Nat}
    (hwait : s.env.waitExtras = e :: es) : beginWait w q s = settling w (waitTicks s w e) es s := by
  have hpos := minTicks_pos s.cfg w
  have hnot : ¬ minTicks s.cfg w + e = 0 := by omega
  simp only [beginWait, drawWait, hwait, if_neg hnot, settling, waitTicks]

section
variable {s : State} {c : HostCmd} {w : Settle} (hrun : Running c s) (hown : ownsSettle c w = true)
include hrun hown

theorem step_settle (hseq : s.seq = .settle w) {e : Nat} {es : List Nat} (hwait : s.env.waitExtras = e :: es) :
    step s = .next (settling w (waitTicks s w e) es s) := by
  rw [hrun.step (by rw [hseq]; exact hown)]
  simp only [blockMove, hseq, beginWait_eq_settling hwait]

theorem step_settling (k : Nat) (es : List Nat) :
    step (settling w k es s) = .next (tick (afterSettle s w) (settling w k es s)) := by
  have hrun : Running c (settling w k es s) := hrun
  have hafter : afterSettle (settling w k es s) w = afterSettle s w := by cases w <;> rfl
  rw [hrun.step hown, ← hafter]
  rfl

/-- Ticks before the last leave the block in its wait (R266). -/
theorem runSteps_ticking (j k : Nat) (es : List Nat) :
    runSteps j (settling w (k + 1 + j) es s) = .next (settling w (k + 1) es s) := by
  induction j with
  | zero => rfl
  | succ j ih =>
    have htick : step (settling w (k + 1 + (j + 1)) es s) = .next (settling w (k + 1 + j) es s) := by
      rw [step_settling hrun hown, tick, if_neg (by simp only [settling]; omega)]
      rfl
    rw [runSteps_succ htick, ih]

/-- The last tick leads on (log 18). -/
theorem runSteps_settled {k : Nat} (hk : 0 < k) (es : List Nat) :
    runSteps k (settling w k es s) = .next (settled w es s) := by
  obtain ⟨j, rfl⟩ := Nat.exists_eq_add_one.mpr hk
  have hlast : step (settling w (0 + 1) es s) = .next (settled w es s) := by
    rw [step_settling hrun hown, tick, if_pos (by simp only [settling]; omega)]
    rfl
  have hticks := runSteps_ticking hrun hown j 0 es
  rw [show 0 + 1 + j = j + 1 by omega] at hticks
  exact runSteps_snoc hticks hlast

/-- A settle wait from its WAIT event to its last tick. -/
theorem runSteps_wait (hseq : s.seq = .settle w) {e : Nat} {es : List Nat} (hwait : s.env.waitExtras = e :: es) :
    runSteps (1 + waitTicks s w e) s = .next (settled w es s) :=
  have hpos : 0 < waitTicks s w e := Nat.add_pos_left (minTicks_pos s.cfg w) e
  runSteps_add (runSteps_one (step_settle hrun hown hseq hwait)) (runSteps_settled hrun hown hpos es)

end

/-! ### Issuing and ending -/

/-- `s` with the command issued (R160). -/
def issued (c : HostCmd) (s : State) : State :=
  { s with cur := some c, preFsm := s.stat.fsm, stat := s.stat.issued, seq := firstStep c }

theorem exec_issued {c : HostCmd} {s : State} (hidle : s.stat.busy = false) (hlen : usesLen c = true → s.len ≠ 0) :
    exec c.toInstr s = .next (issued c s) := by
  rw [exec_toInstr_idle hidle, issue, if_neg (fun h => hlen h.1 h.2), issued]

theorem running_issued {c : HostCmd} {s : State} (hundisturbed : Undisturbed s) : Running c (issued c s) :=
  ⟨hundisturbed, rfl, rfl⟩

/-- The final step (R236). -/
theorem step_final {s : State} {c : HostCmd} {e : ErrCode} (hrun : Running c s) (hown : ownsFinal c e = true)
    (hseq : s.seq = .final e) : step s = .next (finish e (setFsm (finalFsm e s) s)) := by
  rw [hrun.step (by rw [hseq]; exact hown), blockMove_final hseq]

end Sys2Proof.Proofs
end

section
/-! The statements about whole commands: a command is issued, its transactions and waits run one after
another, and its final step ends it. -/

namespace Sys2Proof.Proofs

open Sys2Proof.Machine Sys2Proof.Laws

/-! ### From issue to the final step -/

/-- Issuing and finishing leave the FSM and VALID, and set the rest of STAT by the error code (R160, R236). -/
theorem finished_issued (t : Stat) (e : ErrCode) (f : Fsm) :
    ({ t.issued with fsm := f } : Stat).finished e = { doneStat t e with fsm := f } := by
  cases e <;> rfl

/-- `w` is a state of a command issued in `s`, between its transactions: the application state is that of `s`
but for RX, DEVSTAT and what is hidden. -/
def Underway (s w : State) : Prop :=
  w = { s with
    stat := s.stat.issued, rx := w.rx, devstat := w.devstat, cur := w.cur, seq := w.seq, preFsm := w.preFsm
    bus := .idle, waitLeft := w.waitLeft, trace := w.trace, stallTicks := w.stallTicks, env := w.env }

/-- The final step of a command that a block at rest was issued gives it back at rest. -/
theorem Underway.finish_eq {s w : State} (hrest : AtRest s) (h : Underway s w) (hwait : w.waitLeft = s.waitLeft)
    (e : ErrCode) (f : Fsm) : finish e (setFsm f w) = { s with
      stat := { doneStat s.stat e with fsm := f }, rx := w.rx, devstat := w.devstat, preFsm := w.preFsm
      trace := w.trace, stallTicks := w.stallTicks, env := w.env } := by
  obtain ⟨-, hcur, hseq, hbus⟩ := hrest
  unfold Underway at h
  rw [h, finish, setFsm, hwait, finished_issued, ← hcur, ← hseq, ← hbus]

/-- The last step of a run that has come to the command's final position. -/
theorem runSteps_final {c : HostCmd} {n : Nat} {s u w : State} {e : ErrCode} (hrest : AtRest s)
    (hsteps : runSteps n u = .next w) (hrun : Running c w) (hown : ownsFinal c e = true) (hseq : w.seq = .final e)
    (h : Underway s w) (hwait : w.waitLeft = s.waitLeft) :
    runSteps (n + 1) u = .next { s with
      stat := { doneStat s.stat e with fsm := finalFsm e w }, rx := w.rx, devstat := w.devstat, preFsm := w.preFsm
      trace := w.trace, stallTicks := w.stallTicks, env := w.env } := by
  rw [runSteps_snoc hsteps (step_final hrun hown hseq), h.finish_eq hrest hwait]

/-- Settles O21. -/
theorem busWriteSendsTheBuffer : Obligations.BusWriteSendsTheBuffer := by
  intro s l hrest hundisturbed hlen htx
  have hrun : Running .busWrite (issued .busWrite s) := running_issued hundisturbed
  have hwritten : Running .busWrite (written .hostWrite l (issued .busWrite s)) := hrun
  refine ⟨_, exec_issued (c := .busWrite) hrest.1 fun _ => hlen, ?_⟩
  exact runSteps_final hrest (runSteps_write hrun rfl rfl rfl (by decide) htx) hwritten rfl rfl rfl rfl

/-- The STOP of a failed transaction that is no status read's leads to the transport-error exit (R163). -/
theorem step_stop_failed {s : State} {c : HostCmd} {x : Xfer} (hrun : Running c s) (hown : ownsXfer c x = true)
    (hseq : s.seq = .stop x false) (hx : isStatusXfer x = none) :
    step s = .next (closeXfer x false (.final .transport) s) := by
  rw [hrun.step (by rw [hseq]; exact hown)]
  simp only [blockMove, hseq, closeFailed, hx, Bool.false_eq_true, if_false]

/-- `s` after a transaction whose byte `k` failed, short of what a failed read does to RX (R104, R106). -/
def failedXfer (x : Xfer) (k : Nat) (noAck : Bool) (l : List TxAnswer) (s : State) : State :=
  { s with
    bus := .idle
    trace := s.trace ++ [.start] ++ ((sentBytes s x).take k).map (.tx · .ack) ++
      [badEvent ((sentBytes s x).getD k 0) noAck, .stop]
    seq := .final .transport
    stallTicks := 0
    env := { s.env with txAnswers := l } }

/-- A write transaction that fails at byte `k`. -/
theorem runSteps_failedWrite {s : State} {c : HostCmd} {x : Xfer} (hrun : Running c s) (hown : ownsXfer c x = true)
    (hdir : x.dir = .write) (hseq : s.seq = .start x) (hx : x ≠ .trigger) (hstatus : isStatusXfer x = none)
    {k : Nat} (hk : k ≤ xferLen s x) {noAck : Bool} {l : List TxAnswer}
    (htx : s.env.txAnswers = List.replicate k .ack ++ badAnswer noAck :: l) :
    runSteps (k + 3) s = .next (failedXfer x k noAck l s) := by
  have hlen : k < (sentBytes s x).length := by
    rw [sentBytes, List.length_cons, length_dataBytes hdir]
    exact Nat.lt_succ_of_le hk
  have hstop : Running c (rejected x k noAck l s) := hrun
  have hsteps := (runSteps_succ (step_start hrun hown hseq hx)).trans (runSteps_rejected hrun hown hlen htx)
  refine runSteps_snoc hsteps ((step_stop_failed hstop hown rfl hstatus).trans ?_)
  simp [closeXfer, afterFailure, hdir, rejected, failedXfer]

/-- Settles O22. -/
theorem busWriteFailsAtAnyByte : Obligations.BusWriteFailsAtAnyByte := by
  intro s k noAck l hrest hundisturbed hlen hk htx
  have hrun : Running .busWrite (issued .busWrite s) := running_issued hundisturbed
  have hfailed : Running .busWrite (failedXfer .hostWrite k noAck l (issued .busWrite s)) := hrun
  refine ⟨_, exec_issued (c := .busWrite) hrest.1 fun _ => hlen, ?_⟩
  exact runSteps_final hrest (runSteps_failedWrite hrun rfl rfl rfl (by decide) rfl hk htx) hfailed rfl rfl rfl rfl

/-- Settles O23. -/
theorem busReadFillsTheBuffer : Obligations.BusReadFillsTheBuffer := by
  intro s bytes l m hrest hundisturbed hlen hbytes htx hrx
  have hrun : Running .busRead (issued .busRead s) := running_issued hundisturbed
  have hread : Running .busRead (readOk .hostRead bytes l m (issued .busRead s)) := hrun
  refine ⟨_, exec_issued (c := .busRead) hrest.1 fun _ => hlen, ?_⟩
  exact runSteps_final hrest (runSteps_read hrun rfl rfl rfl hbytes htx hrx) hread rfl rfl rfl rfl

/-- Settles O24: at the address byte nothing was received, and at a data byte less than N bytes. -/
theorem busReadFailsAtAnyByte : Obligations.BusReadFailsAtAnyByte := by
  intro s hrest hundisturbed hlen
  have hrun : Running .busRead (issued .busRead s) := running_issued hundisturbed
  have hissue : exec .busRead s = .next (issued .busRead s) := exec_issued (c := .busRead) hrest.1 fun _ => hlen
  refine ⟨fun noAck l htx => ?address, fun bytes l m hbytes htx hrx => ?data⟩
  case address =>
    have hstop : Running .busRead (rejected .hostRead 0 noAck l (issued .busRead s)) := hrun
    have hsteps := (runSteps_succ (step_start hrun rfl rfl (by decide))).trans
      (runSteps_rejected (x := .hostRead) (k := 0) hrun rfl (Nat.succ_pos _) htx)
    have hclosed := runSteps_snoc hsteps (step_stop_failed hstop rfl rfl rfl)
    refine ⟨_, _, hissue, runSteps_final hrest hclosed hstop rfl rfl rfl rfl, ?_, fun j hj => ?_⟩
    · rw [closeXfer_trace]
      simp only [rejected, issued, List.append_assoc]
      rfl
    · exact closeXfer_rx_other .hostRead false (.final .transport) _ j (.inr hj)
  case data =>
    have hstop : Running .busRead (readFailed .hostRead bytes l m (issued .busRead s)) := hrun
    have hclosed := runSteps_snoc (runSteps_readFailed hrun rfl rfl rfl hbytes htx hrx)
      (step_stop_failed hstop rfl rfl rfl)
    rw [show bytes.length + 5 = 2 + bytes.length + 1 + 1 + 1 by omega]
    refine ⟨_, _, hissue, runSteps_final hrest hclosed hstop rfl rfl rfl rfl, ?_, fun j hj => ?_⟩
    · rw [closeXfer_trace]
      simp only [readFailed, issued, List.append_assoc]
      rfl
    · refine (closeXfer_rx_other .hostRead false (.final .transport)
        (readFailed .hostRead bytes l m (issued .busRead s)) j (.inr hj)).trans ?_
      exact (getElem_received bytes s.rx j.isLt).trans (List.getD_eq_default _ _ (hbytes.le.trans hj))

/-! ### Status reads -/

/-- `s` after a status read that brought the byte `b` (R165). -/
def statusDone (again : Bool) (b : Byte) (l : List TxAnswer) (m : List RxAnswer) (s : State) : State :=
  readOk (.statusRead again) [b] l m (written (.statusWrite again) (.ack :: l) s)

/-- The two transactions of a status read. -/
theorem runSteps_statusDone {s : State} {c : HostCmd} {again : Bool} (hrun : Running c s)
    (hwrite : ownsXfer c (.statusWrite again) = true) (hread : ownsXfer c (.statusRead again) = true)
    (hseq : s.seq = .start (.statusWrite again)) {b : Byte} {l : List TxAnswer} {m : List RxAnswer}
    (htx : s.env.txAnswers = .ack :: .ack :: .ack :: l) (hrx : s.env.rxAnswers = .byte b :: m) :
    runSteps 8 s = .next (statusDone again b l m s) := by
  have hwritten : Running c (written (.statusWrite again) (.ack :: l) s) := hrun
  exact runSteps_add (m := 4) (n := 4) (runSteps_write hrun hwrite rfl hseq nofun htx)
    (runSteps_read hwritten hread rfl rfl rfl rfl hrx)

/-- Settles O25. -/
theorem statusReadStoresTheStatusByte : Obligations.StatusReadStoresTheStatusByte := by
  intro s b l m hrest hundisturbed htx hrx
  have hrun : Running .statusRead (issued .statusRead s) := running_issued hundisturbed
  have hdone : Running .statusRead (statusDone false b l m (issued .statusRead s)) := hrun
  refine ⟨_, exec_issued (c := .statusRead) hrest.1 nofun, ?_⟩
  exact runSteps_final hrest (runSteps_statusDone hrun rfl rfl rfl htx hrx) hdone rfl rfl rfl rfl

/-- Settles O27: the ready bit leads from the first status read to the final step. -/
theorem initializeWhenAlreadyReady : Obligations.InitializeWhenAlreadyReady := by
  intro s b l m hrest hundisturbed htx hrx hready
  have hrun : Running .initializeCmd (issued .initializeCmd s) := running_issued hundisturbed
  have hdone : Running .initializeCmd (statusDone false b l m (issued .initializeCmd s)) := hrun
  have hseq : (statusDone false b l m (issued .initializeCmd s)).seq = .final .none := if_pos hready
  refine ⟨_, exec_issued (c := .initializeCmd) hrest.1 nofun, ?_⟩
  exact runSteps_final hrest (runSteps_statusDone hrun rfl rfl rfl htx hrx) hdone rfl hseq rfl rfl

/-- A byte received for RX[0] replaces the one before it (R36). -/
theorem received_single_twice (a b : Byte) (rx : Vector Byte 7) :
    received [b] (received [a] rx) = received [b] rx := by
  refine Vector.ext fun j hj => ?_
  rw [getElem_received _ _ hj, getElem_received _ _ hj, getElem_received _ _ hj]
  cases j <;> rfl

/-- `s` with INITIALIZE issued, the ready bit of `b` found clear, INIT sent and its wait over. -/
def initSent (b : Byte) (l : List TxAnswer) (m : List RxAnswer) (w : List Nat) (s : State) : State :=
  settled .init w (written .initWrite l
    (statusDone false b (List.replicate 4 TxAnswer.ack ++ l) m (issued .initializeCmd s)))

/-- INITIALIZE up to its second status read (R171). -/
theorem runSteps_initSent {s : State} {b : Byte} {l : List TxAnswer} {m : List RxAnswer} {e : Nat} {w : List Nat}
    (hundisturbed : Undisturbed s) (htx : s.env.txAnswers = List.replicate 7 .ack ++ l)
    (hrx : s.env.rxAnswers = .byte b :: m) (hextra : s.env.waitExtras = e :: w) (hnotReady : b.getLsbD 3 = false) :
    runSteps (15 + (10 * s.cfg.ticksPerMs + e)) (issued .initializeCmd s) = .next (initSent b l m w s) := by
  have hrun : Running .initializeCmd (issued .initializeCmd s) := running_issued hundisturbed
  have hdone : Running .initializeCmd
    (statusDone false b (List.replicate 4 TxAnswer.ack ++ l) m (issued .initializeCmd s)) := hrun
  have hseq : (statusDone false b (List.replicate 4 TxAnswer.ack ++ l) m (issued .initializeCmd s)).seq =
    .start .initWrite := if_neg (Bool.eq_false_iff.mp hnotReady)
  have hwritten : Running .initializeCmd (written .initWrite l
    (statusDone false b (List.replicate 4 TxAnswer.ack ++ l) m (issued .initializeCmd s))) := hrun
  have hstatus := runSteps_statusDone hrun rfl rfl rfl htx hrx
  have hinit := runSteps_write hdone rfl rfl hseq (by decide) (l := l) rfl
  have hwait := runSteps_wait hwritten rfl rfl hextra
  rw [show 15 + (10 * s.cfg.ticksPerMs + e) = 8 + (6 + (1 + (10 * s.cfg.ticksPerMs + e))) by omega]
  exact runSteps_add hstatus (runSteps_add (m := 6) hinit hwait)

/-- Settles O28: the second status read's ready bit decides where the first, INIT and the wait have led to. -/
theorem initializeSendsInitAndReadsAgain : Obligations.InitializeSendsInitAndReadsAgain := by
  intro s b1 b2 e w l m hrest hundisturbed hwait htx hrx hextra hnotReady
  have hsent : Running .initializeCmd (initSent b1 (List.replicate 3 TxAnswer.ack ++ l) (.byte b2 :: m) w s) :=
    running_issued (s := s) hundisturbed
  have hdone : Running .initializeCmd
    (statusDone true b2 l m (initSent b1 (List.replicate 3 TxAnswer.ack ++ l) (.byte b2 :: m) w s)) := hsent
  have hsteps := runSteps_add
    (runSteps_initSent (l := List.replicate 3 TxAnswer.ack ++ l) hundisturbed htx hrx hextra hnotReady)
    (runSteps_statusDone (again := true) hsent rfl rfl rfl rfl rfl)
  refine ⟨_, exec_issued (c := .initializeCmd) hrest.1 nofun, ?_⟩
  rw [show 24 + (10 * s.cfg.ticksPerMs + e) = 15 + (10 * s.cfg.ticksPerMs + e) + 8 + 1 by omega,
    ← received_single_twice b1]
  cases hready : b2.getLsbD 3 with
  | true =>
    have hseq : (statusDone true b2 l m (initSent b1 (List.replicate 3 TxAnswer.ack ++ l) (.byte b2 :: m) w s)).seq =
      .final .none := if_pos hready
    exact runSteps_final hrest hsteps hdone rfl hseq rfl hwait.symm
  | false =>
    have hseq : (statusDone true b2 l m (initSent b1 (List.replicate 3 TxAnswer.ack ++ l) (.byte b2 :: m) w s)).seq =
      .final .initNotReady := if_neg (Bool.eq_false_iff.mp hready)
    exact runSteps_final hrest hsteps hdone rfl hseq rfl hwait.symm

/-! ### SOFT_RESET -/

/-- Settles O30: the write, the wait, and the final step. -/
theorem softResetSendsAndWaits : Obligations.SoftResetSendsAndWaits := by
  intro s e w l hrest hundisturbed hwait htx hextra
  have hrun : Running .softReset (issued .softReset s) := running_issued hundisturbed
  have hwritten : Running .softReset (written .resetWrite l (issued .softReset s)) := hrun
  have hsettled : Running .softReset (settled .softReset w (written .resetWrite l (issued .softReset s))) := hrun
  have hsteps := runSteps_add (m := 4) (runSteps_write hrun rfl rfl rfl (by decide) htx)
    (runSteps_wait hwritten rfl rfl hextra)
  refine ⟨_, exec_issued (c := .softReset) hrest.1 nofun, ?_⟩
  rw [show 6 + (20 * s.cfg.ticksPerMs + e) = 4 + (1 + (20 * s.cfg.ticksPerMs + e)) + 1 by omega]
  exact runSteps_final hrest hsteps hsettled rfl rfl rfl hwait.symm

/-- Settles O31. -/
theorem softResetFailureSkipsTheWait : Obligations.SoftResetFailureSkipsTheWait := by
  intro s k noAck l hrest hundisturbed hk htx
  have hrun : Running .softReset (issued .softReset s) := running_issued hundisturbed
  have hfailed : Running .softReset (failedXfer .resetWrite k noAck l (issued .softReset s)) := hrun
  refine ⟨_, exec_issued (c := .softReset) hrest.1 nofun, ?_⟩
  exact runSteps_final hrest (runSteps_failedWrite hrun rfl rfl rfl (by decide) rfl hk htx) hfailed rfl rfl rfl rfl

/-! ### MEASURE -/

/-- MEASURE's first step is at the trigger's START position (R177, R179). -/
theorem step_issued_measure {c : Bool} {s : State} (hundisturbed : Undisturbed s) :
    step (issued (.measure c) s) = .next (beginMeasure (issued (.measure c) s)) := by
  have hrun : Running (.measure c) (issued (.measure c) s) := running_issued hundisturbed
  rw [hrun.step rfl, blockMove_trigger rfl]

/-- Settles O32: MEASURE's first step is its final step. -/
theorem measureNeedsCalibration : Obligations.MeasureNeedsCalibration := by
  intro s c hrest hundisturbed huninit
  refine ⟨_, exec_issued (c := .measure c) hrest.1 nofun, ?_⟩
  have hunderway : Underway s (issued (.measure c) s) := by
    obtain ⟨-, -, -, hbus⟩ := hrest
    rw [Underway, issued, hbus]
  have hend : beginMeasure (issued (.measure c) s) =
      finish .notCalibrated (setFsm (issued (.measure c) s).stat.fsm (issued (.measure c) s)) := if_pos huninit
  rw [step_issued_measure hundisturbed, hend, hunderway.finish_eq hrest rfl, ← huninit]
  rfl

/-- `s` with MEASURE issued, the trigger sent, its wait over and the frame received. -/
def framed (c : Bool) (frame : List Byte) (l : List TxAnswer) (m : List RxAnswer) (w : List Nat) (s : State) : State :=
  readOk (.frameRead c) frame l m
    (settled .measure w (written .trigger (.ack :: l) (setFsm .measuring (issued (.measure c) s))))

/-- MEASURE up to its final step over the frame (R177). -/
theorem runSteps_framed {s : State} {c : Bool} {frame : List Byte} {e : Nat} {w : List Nat} {l : List TxAnswer}
    {m : List RxAnswer} (hundisturbed : Undisturbed s) (hfsm : s.stat.fsm ≠ .uninitialized)
    (hlen : frame.length = frameLen c) (htx : s.env.txAnswers = List.replicate 5 .ack ++ l)
    (hextra : s.env.waitExtras = e :: w) (hrx : s.env.rxAnswers = frame.map .byte ++ m) :
    runSteps (10 + (80 * s.cfg.ticksPerMs + e) + frameLen c) (issued (.measure c) s) =
      .next (framed c frame l m w s) := by
  have hstart : Running (.measure c) (setFsm .measuring (issued (.measure c) s)) := running_issued (s := s) hundisturbed
  have hwritten : Running (.measure c) (written .trigger (.ack :: l) (setFsm .measuring (issued (.measure c) s))) :=
    hstart
  have hsettled : Running (.measure c)
    (settled .measure w (written .trigger (.ack :: l) (setFsm .measuring (issued (.measure c) s)))) := hstart
  have hseq : (settled .measure w
      (written .trigger (.ack :: l) (setFsm .measuring (issued (.measure c) s)))).seq = .start (.frameRead c) := by
    cases c <;> rfl
  have hown : ownsXfer (.measure c) (.frameRead c) = true := by cases c <;> rfl
  have hbegin : step (issued (.measure c) s) =
      .next (openXfer .trigger (setFsm .measuring (issued (.measure c) s))) :=
    (step_issued_measure hundisturbed).trans (congrArg _ (if_neg hfsm))
  have htrigger := (runSteps_succ hbegin).trans (runSteps_written hstart rfl rfl htx)
  have hwait := runSteps_wait hwritten rfl rfl hextra
  have hread := runSteps_read hsettled hown rfl hseq (l := l) hlen rfl hrx
  rw [show 10 + (80 * s.cfg.ticksPerMs + e) + frameLen c =
    6 + (1 + (80 * s.cfg.ticksPerMs + e) + (frameLen c + 3)) by omega]
  exact runSteps_add (m := 6) htrigger (runSteps_add hwait hread)

/-- RX holds the bytes that filled it. -/
theorem getElem_received_take (f rx : Vector Byte 7) {j n : Nat} (hj : j < n) (hn : n ≤ 7) :
    (received (f.toList.take n) rx)[j] = f[j] := by
  rw [getElem_received _ _ (hj.trans_le hn), List.getD_eq_getElem _ _ (by simp; omega)]
  simp

/-- A frame's final step writes no more than STAT, DEVSTAT, CRCR and the raw fields, and ends the command. -/
theorem evaluateFrame_eq (c : Bool) (s : State) : evaluateFrame c s = { s with
    stat := (evaluateFrame c s).stat, devstat := (evaluateFrame c s).devstat
    crcCalc := (evaluateFrame c s).crcCalc, crcRecv := (evaluateFrame c s).crcRecv
    rawH := (evaluateFrame c s).rawH, rawT := (evaluateFrame c s).rawT, cur := none, seq := .idle } := by
  rcases evaluateFrame_cases c s with ⟨-, h⟩ | ⟨-, -, -, h⟩ | ⟨-, -, -, h⟩ | ⟨-, -, h⟩ <;> rw [h] <;> rfl

theorem toList_take_six (f : Vector Byte 7) : f.toList.take 6 = [f[0], f[1], f[2], f[3], f[4], f[5]] := by
  obtain ⟨⟨l⟩, hlen⟩ := f
  match l, hlen with
  | [_, _, _, _, _, _, _], _ => rfl

/-- Settles O35: the run comes to the frame, and the frame to one of its outcomes. -/
theorem measureRunsToItsOutcome : Obligations.MeasureRunsToItsOutcome := by
  intro s c f e w l m hrest hundisturbed hwait hfsm htx hextra hrx
  have hlen : (f.toList.take (frameLen c)).length = frameLen c := by cases c <;> simp [frameLen]
  have huninit : s.stat.fsm ≠ .uninitialized := by rcases hfsm with h | h <;> rw [h] <;> decide
  have hsteps := runSteps_framed hundisturbed huninit hlen htx hextra hrx
  have hrun : Running (.measure c) (framed c (f.toList.take (frameLen c)) l m w s) :=
    running_issued (s := s) hundisturbed
  have hbyte (j : Nat) (hj : j < 6) : (framed c (f.toList.take (frameLen c)) l m w s).rx[j] = f[j] :=
    getElem_received_take f s.rx (by cases c <;> simp [frameLen] <;> omega) (by cases c <;> decide)
  have hcrcByte (hc : c = true) : (framed c (f.toList.take (frameLen c)) l m w s).rx[6] = f[6] := by
    subst hc
    exact getElem_received_take f s.rx (by decide) (by decide)
  obtain ⟨v, hv⟩ : ∃ v, v = framed c (f.toList.take (frameLen c)) l m w s := ⟨_, rfl⟩
  have hseq : v.seq = .evaluate := by rw [hv]; rfl
  rw [← hv] at hsteps hrun hbyte hcrcByte
  have hfits : fits (.measure c) v.seq = true := by rw [hseq]; cases c <;> rfl
  have hlast : step v = .next (evaluateFrame c v) := by
    rw [hrun.step hfits, blockMove_evaluate hrun.2.2 hseq]
  have hcrc8 : crc8 [v.rx[0], v.rx[1], v.rx[2], v.rx[3], v.rx[4], v.rx[5]] = crc8 (f.toList.take 6) := by
    rw [toList_take_six, hbyte 0, hbyte 1, hbyte 2, hbyte 3, hbyte 4, hbyte 5] <;> decide
  refine ⟨_, evaluateFrame c v, exec_issued (c := .measure c) hrest.1 nofun, ?run, ?trace, ?rx, ?devstat, ?kept,
    fun hbit => ?busy, fun hbit hc => ?crc, fun hbit hcrc => ?success⟩
  case run =>
    rw [show 11 + (80 * s.cfg.ticksPerMs + e) + (if c = true then 7 else 6) =
      10 + (80 * s.cfg.ticksPerMs + e) + frameLen c + 1 by rw [frameLen]; omega]
    exact runSteps_snoc hsteps hlast
  case trace => rw [evaluateFrame_trace, hv]; rfl
  case rx => rw [evaluateFrame_rx, hv]; rfl
  case devstat => rw [evaluateFrame_devstat, hbyte 0 (by decide)]
  case kept =>
    obtain ⟨-, hcur, hidle, hbus⟩ := hrest
    rw [evaluateFrame_eq, hcur, hidle, hbus, hwait, hv]
    rfl
  case busy =>
    rw [evaluateFrame_busy c (by rw [hbyte 0 (by decide)]; exact hbit), hv]
    exact ⟨rfl, rfl, rfl, rfl, rfl⟩
  case crc =>
    have hbit : busyBit v.rx[0] = false := by rw [hbyte 0 (by decide)]; exact hbit
    subst hc
    by_cases hpass : crc8 (f.toList.take 6) = f[6]
    · rw [evaluateFrame_goodCrc hbit (by rw [hcrcByte rfl, ← hpass, ← hcrc8]; rfl)]
      exact ⟨(hcrcByte rfl).trans hpass.symm, hcrcByte rfl, fun hfail => absurd hpass hfail⟩
    · rw [evaluateFrame_badCrc hbit (by rw [hcrcByte rfl, recordCrc_crcCalc, hcrc8]; exact hpass)]
      exact ⟨hcrc8, hcrcByte rfl, fun _ => by rw [hv]; exact ⟨rfl, rfl, rfl⟩⟩
  case success =>
    have hbit : busyBit v.rx[0] = false := by rw [hbyte 0 (by decide)]; exact hbit
    have hfields : (parseBuffer v.rx c).h = f[1] ++ f[2] ++ f[3].extractLsb' 4 4 ∧
        (parseBuffer v.rx c).t = f[3].extractLsb' 0 4 ++ f[4] ++ f[5] := by
      rw [← humidityField_eq_append, ← temperatureField_eq_append, ← hbyte 1 (by decide), ← hbyte 2 (by decide),
        ← hbyte 3 (by decide), ← hbyte 4 (by decide), ← hbyte 5 (by decide)]
      exact ⟨rfl, rfl⟩
    obtain ⟨hhumidity, htemperature⟩ := hfields
    cases c with
    | false =>
      rw [evaluateFrame_noCrc hbit]
      exact ⟨by rw [hv]; rfl, hhumidity, htemperature, fun _ => by rw [hv]; exact ⟨rfl, rfl⟩⟩
    | true =>
      rw [evaluateFrame_goodCrc hbit (by rw [hcrcByte rfl, ← hcrc rfl, ← hcrc8]; rfl)]
      exact ⟨by rw [hv]; rfl, hhumidity, htemperature, nofun⟩

end Sys2Proof.Proofs
end

section
/-! What each operation of the block can write at all, and the parts of a command that end it: failed
transactions, settle waits and final steps, each as the row that runs it. -/

namespace Sys2Proof.Proofs

open Sys2Proof.Machine Sys2Proof.Laws

/-! ### What each operation writes -/

section
variable (x : Xfer) (s : State)

theorem drawTx_eq : (drawTx s).2 = { s with env := (drawTx s).2.env } := by
  unfold drawTx
  split <;> rfl

theorem drawRx_eq : (drawRx s).2 = { s with env := (drawRx s).2.env } := by
  unfold drawRx
  split <;> rfl

theorem drawWait_eq : (drawWait s).2 = { s with env := (drawWait s).2.env } := by
  unfold drawWait
  split <;> rfl

/-- A sent byte writes no register (R80, R114). -/
theorem transmit_eq (b : Byte) (q : Seq) : transmit x b q s = { s with
    seq := (transmit x b q s).seq, trace := (transmit x b q s).trace, stallTicks := (transmit x b q s).stallTicks
    env := (transmit x b q s).env } := by
  unfold transmit
  rw [drawTx_eq s]
  cases (drawTx s).1 with
  | ack | nack | fail => rfl
  | stall =>
    simp only [answerTx, stallByte]
    split <;> rfl

/-- A received byte is written to RX, and a Status Byte to DEVSTAT (R110, R165). -/
theorem receiveByte_eq (i : Nat) : receiveByte x i s = { s with
    rx := (receiveByte x i s).rx, devstat := (receiveByte x i s).devstat, seq := (receiveByte x i s).seq
    trace := (receiveByte x i s).trace, stallTicks := (receiveByte x i s).stallTicks
    env := (receiveByte x i s).env } := by
  unfold receiveByte
  rw [drawRx_eq s]
  cases (drawRx s).1 with
  | byte d => rfl
  | fail => rfl
  | stall =>
    simp only [answerRx, stallByte]
    split <;> rfl

/-- STOP frees the bus; after a failed read RX holds fresh draws (R36, R106). -/
theorem closeXfer_eq (ok : Bool) (q : Seq) : closeXfer x ok q s = { s with
    trace := s.trace ++ [.stop], bus := .idle, seq := q, rx := (closeXfer x ok q s).rx
    env := { s.env with draws := (closeXfer x ok q s).env.draws } } := by
  cases ok with
  | true => rfl
  | false => cases x <;> rfl

/-- The STOP of a failed status read may also put 0x00 in DEVSTAT (R165). -/
theorem absorbFailure_eq (onByte : Byte → Seq) : absorbFailure x onByte s = { s with
    trace := s.trace ++ [.stop], bus := .idle, seq := (absorbFailure x onByte s).seq
    devstat := (absorbFailure x onByte s).devstat, rx := (absorbFailure x onByte s).rx
    env := { s.env with draws := (absorbFailure x onByte s).env.draws } } := by
  unfold absorbFailure
  split <;> rw [closeXfer_eq]

theorem absorbFailure_rx (onByte : Byte → Seq) :
    (absorbFailure x onByte s).rx = (closeXfer x false (.final .transport) s).rx := by
  unfold absorbFailure
  split <;> rfl

theorem beginWait_eq (w : Settle) (q : Seq) : beginWait w q s = { s with
    trace := (beginWait w q s).trace, waitLeft := (beginWait w q s).waitLeft, seq := (beginWait w q s).seq
    env := (beginWait w q s).env } := by
  simp only [beginWait]
  rw [drawWait_eq s]

end

/-! ### Steps of a running command, as its row runs them -/

theorem doneStat_eq_finished (t : Stat) (e : ErrCode) : doneStat t e = t.finished e := by
  cases e <;> rfl

section
variable {c : HostCmd} {s : State} (hbusy : s.stat.busy = true) (hcur : s.cur = some c)
include hbusy hcur

/-- At every position of its own where no byte moves, a running command makes the move of its position. -/
theorem exec_move (hfits : fits c s.seq = true) (haddr : ∀ x, s.seq ≠ .address x)
    (hdata : ∀ x i, s.seq ≠ .data x i) : exec c.toInstr s = .next (blockMove s) := by
  obtain ⟨t, ht⟩ := advance_answers hfits haddr fun x i h => absurd h (hdata x i)
  rw [exec_toInstr_running hbusy hcur, ht, advance_eq_blockMove hcur ht]

theorem exec_stop_failed {x : Xfer} (hown : ownsXfer c x = true) (hseq : s.seq = .stop x false) :
    exec c.toInstr s = .next (closeFailed x s) := by
  rw [exec_move hbusy hcur (by rw [hseq]; exact hown) (by simp [hseq]) (by simp [hseq])]
  simp [blockMove, hseq]

/-- The final step ends the command (R236). -/
theorem exec_final {e : ErrCode} (hown : ownsFinal c e = true) (hseq : s.seq = .final e) {f : Fsm}
    (hfsm : finalFsm e s = f) : exec c.toInstr s = .next { s with
      stat := { doneStat s.stat e with fsm := f }, cur := none, seq := .idle } := by
  rw [exec_move hbusy hcur (by rw [hseq]; exact hown) (by simp [hseq]) (by simp [hseq]), blockMove_final hseq,
    doneStat_eq_finished, hfsm]
  rfl

theorem exec_settle {w : Settle} (hown : ownsSettle c w = true) (hseq : s.seq = .settle w) :
    exec c.toInstr s = .next (beginWait w (afterSettle s w) s) := by
  rw [exec_move hbusy hcur (by rw [hseq]; exact hown) (by simp [hseq]) (by simp [hseq])]
  simp only [blockMove, hseq]

end

/-! ### Settle waits -/

/-- Settles O36: the wait of each command, from its WAIT to its last tick. -/
theorem settleWaitLastsItsTicks : Obligations.SettleWaitLastsItsTicks := by
  intro s i c w ms after e es hcase hundisturbed hbusy hcur hseq hextra
  have hwait : i = c.toInstr ∧ ownsSettle c w = true ∧ settleMs w = ms ∧ afterSettle s w = after := by
    rcases hcase with ⟨rfl, rfl, rfl, rfl, rfl⟩ | ⟨rfl, rfl, rfl, rfl, rfl⟩ | ⟨crcEn, rfl, rfl, rfl, rfl, rfl⟩
    · exact ⟨rfl, rfl, rfl, rfl⟩
    · exact ⟨rfl, rfl, rfl, rfl⟩
    · exact ⟨rfl, rfl, rfl, by rw [afterSettle, crcEn_eq_cur hcur]⟩
  obtain ⟨rfl, hown, rfl, rfl⟩ := hwait
  have hrun : Running c s := ⟨hundisturbed, hbusy, hcur⟩
  refine ⟨?first, fun j hj => ?within, runSteps_wait hrun hown hseq hextra⟩
  case first =>
    rw [exec_settle hbusy hcur hown hseq, beginWait_eq_settling hextra]
    rfl
  case within =>
    obtain ⟨k, hk⟩ : ∃ k, waitTicks s w e = k + 1 + j :=
      ⟨waitTicks s w e - j - 1, by have : j < waitTicks s w e := hj; omega⟩
    have hleft : settleMs w * s.cfg.ticksPerMs + e - j = k + 1 :=
      Nat.sub_eq_of_eq_add hk
    rw [hleft]
    refine runSteps_add (runSteps_one (step_settle hrun hown hseq hextra)) ?_
    rw [hk]
    exact runSteps_ticking hrun hown j k es

/-! ### Failed transactions -/

/-- Settles O29. -/
theorem transportErrorExit : Obligations.TransportErrorExit := by
  intro s hbusy
  refine ⟨fun hcur hseq => ?init, fun c hcur hseq => ?trigger, fun c hcur hseq => ?frame, fun hcur hseq => ?initEnd,
    fun c hcur hseq => ?measureEnd, fun e hcur hseq => ?statusEnd⟩
  case init => exact exec_stop_failed (c := .initializeCmd) hbusy hcur rfl hseq
  case trigger => exact exec_stop_failed (c := .measure c) hbusy hcur rfl hseq
  case frame =>
    have hown : ownsXfer (.measure c) (.frameRead c) = true := by cases c <;> rfl
    exact ⟨_, exec_stop_failed (c := .measure c) hbusy hcur hown hseq, rfl, fun j hj =>
      closeXfer_rx_other (.frameRead c) false (.final .transport) s j (.inr hj)⟩
  case initEnd =>
    exact exec_final (c := .initializeCmd) hbusy hcur rfl hseq (by rw [finalFsm, hcur]; rfl)
  case measureEnd =>
    exact exec_final (c := .measure c) hbusy hcur rfl hseq (by rw [finalFsm, hcur]; rfl)
  case statusEnd =>
    refine (exec_toInstr_running (c := .statusRead) hbusy hcur).trans ?_
    rw [advance, advanceStatusRead, hseq, doneStat_eq_finished]
    rfl

/-- What the STOP of a failed status read writes, and where it leads (R36, R165, R167). -/
theorem absorbFailure_rx_other {again : Bool} {x : Xfer} (hx : x = .statusWrite again ∨ x = .statusRead again)
    (onByte : Byte → Seq) (s : State) (j : Fin 7) (hj : x = .statusWrite again ∨ 1 ≤ j.val) :
    (absorbFailure x onByte s).rx[j] = s.rx[j] := by
  rw [absorbFailure_rx]
  refine closeXfer_rx_other x false (.final .transport) s j ?_
  rcases hx with rfl | rfl
  · exact .inl rfl
  · exact .inr (hj.resolve_left nofun)

/-- The STOP of a failed status read of a running command. -/
theorem exec_failedStatus {c : HostCmd} {again : Bool} {x : Xfer} {s : State}
    (hx : x = .statusWrite again ∨ x = .statusRead again) (hbusy : s.stat.busy = true) (hcur : s.cur = some c)
    (hown : ownsXfer c x = true) (hseq : s.seq = .stop x false) :
    exec c.toInstr s = .next (absorbFailure x (onStatus s again) s) := by
  rw [exec_stop_failed hbusy hcur hown hseq]
  rcases hx with rfl | rfl <;> rfl

/-- The final step after the STOP of a failed status read. -/
theorem exec_final_of_absorbFailure {c : HostCmd} {x : Xfer} {onByte : Byte → Seq} {s : State} {e : ErrCode}
    (hbusy : s.stat.busy = true) (hcur : s.cur = some c) (hown : ownsFinal c e = true)
    (hseq : (absorbFailure x onByte s).seq = .final e) {f : Fsm} (hfsm : finalFsm e s = f) :
    exec c.toInstr (absorbFailure x onByte s) = .next { absorbFailure x onByte s with
      stat := { doneStat s.stat e with fsm := f }, cur := none, seq := .idle } := by
  have hstat : (absorbFailure x onByte s).stat = s.stat := by rw [absorbFailure_eq]
  have hcurAfter : (absorbFailure x onByte s).cur = s.cur := by rw [absorbFailure_eq]
  have hfsmAfter : finalFsm e (absorbFailure x onByte s) = f := by rw [← hfsm, absorbFailure_eq]; rfl
  rw [exec_final (hstat ▸ hbusy) (hcurAfter.trans hcur) hown hseq hfsmAfter, hstat]

/-- With PROPAGATE a failed status read is a transport error (R167). -/
theorem absorbFailure_propagate {s : State} (hpolicy : s.cfg.statusFailPolicy = .propagate) (x : Xfer)
    (onByte : Byte → Seq) : (absorbFailure x onByte s).devstat = s.devstat ∧
      (absorbFailure x onByte s).seq = .final .transport := by
  rcases absorbFailure_cases x onByte s with ⟨-, hseq, hdev⟩ | ⟨hzero, -⟩
  · exact ⟨hdev, hseq⟩
  · simp [hpolicy] at hzero

/-- With AS_ZERO a failed status read counts as the Status Byte 0x00 (R167). -/
theorem absorbFailure_asZero {s : State} (hpolicy : s.cfg.statusFailPolicy = .asZero) (x : Xfer)
    (onByte : Byte → Seq) : (absorbFailure x onByte s).devstat = 0 ∧ (absorbFailure x onByte s).seq = onByte 0 := by
  rcases absorbFailure_cases x onByte s with ⟨hpropagate, -⟩ | ⟨-, hseq, hdev⟩
  · simp [hpolicy] at hpropagate
  · exact ⟨hdev, hseq⟩

/-- Settles O26: the policy decides where the STOP leads, and the final step ends what it led to. -/
theorem failedStatusReadFollowsThePolicy : Obligations.FailedStatusReadFollowsThePolicy := by
  intro s again x hx hbusy hseq
  refine ⟨fun hcur hagain => ?status, fun hcur => ?init⟩
  case status =>
    have hown : ownsXfer .statusRead x = true := by subst hagain; rcases hx with rfl | rfl <;> rfl
    have hon : onStatus s again 0 = .final .none := by rw [onStatus, hcur]; rfl
    have hfsm (e : ErrCode) : finalFsm e s = s.stat.fsm := by rw [finalFsm, hcur]
    refine ⟨_, exec_failedStatus (c := .statusRead) hx hbusy hcur hown hseq, absorbFailure_eq x s _,
      absorbFailure_rx_other hx _ s, fun hpolicy => ?_, fun hpolicy => ?_⟩
    · obtain ⟨hdev, hto⟩ := absorbFailure_propagate hpolicy x (onStatus s again)
      exact ⟨hdev, hto, exec_final_of_absorbFailure (c := .statusRead) hbusy hcur rfl hto (hfsm _)⟩
    · obtain ⟨hdev, hto⟩ := absorbFailure_asZero hpolicy x (onStatus s again)
      have hto := hto.trans hon
      exact ⟨hdev, hto, exec_final_of_absorbFailure (c := .statusRead) hbusy hcur rfl hto (hfsm _)⟩
  case init =>
    have hown : ownsXfer .initializeCmd x = true := by rcases hx with rfl | rfl <;> rfl
    have hon : onStatus s again 0 = afterInitStatus again 0 := by rw [onStatus, if_pos hcur]
    have hfsm (e : ErrCode) : finalFsm e s = initFsm e s := by rw [finalFsm, hcur]
    refine ⟨_, exec_failedStatus (c := .initializeCmd) hx hbusy hcur hown hseq, absorbFailure_eq x s _,
      absorbFailure_rx_other hx _ s, fun hpolicy => ?_, fun hpolicy => ?_⟩
    · obtain ⟨hdev, hto⟩ := absorbFailure_propagate hpolicy x (onStatus s again)
      exact ⟨hdev, hto, exec_final_of_absorbFailure (c := .initializeCmd) hbusy hcur rfl hto (hfsm _)⟩
    · obtain ⟨hdev, hto⟩ := absorbFailure_asZero hpolicy x (onStatus s again)
      refine ⟨hdev, fun hfirst => ?_, fun hsecond => ?_⟩
      · rw [hto, hon, hfirst]
        rfl
      · have hto : (absorbFailure x (onStatus s again) s).seq = .final .initNotReady := by
          rw [hto, hon, hsecond]
          rfl
        exact ⟨hto, exec_final_of_absorbFailure (c := .initializeCmd) hbusy hcur rfl hto (hfsm _)⟩

end Sys2Proof.Proofs
end

section
/-! The frame of each row of the opcode table: what its steps leave alone, whatever the state. -/

namespace Sys2Proof.Proofs

open Sys2Proof.Machine Sys2Proof.Laws

/-! ### What a command word can do -/

theorem issue_eq (c : HostCmd) (s : State) : issue c s = { s with
    stat := (issue c s).stat, cur := (issue c s).cur, seq := (issue c s).seq, preFsm := (issue c s).preFsm
    refused := (issue c s).refused } := by
  unfold issue
  split <;> rfl

theorem issue_valid (c : HostCmd) (s : State) : (issue c s).stat.valid = s.stat.valid := by
  obtain ⟨-, -, hvalid⟩ := issue_readingKept c s
  exact hvalid

/-- A command word is issued, refused, or the next step of its own command. -/
theorem exec_toInstr_cases {c : HostCmd} {s t : State} (h : exec c.toInstr s = .next t) :
    t = issue c s ∨ t = refuse .busy s ∨ advance c s = .next t := by
  rw [exec_toInstr] at h
  rcases asCommand_cases h with ⟨-, rfl⟩ | ⟨-, -, hrun⟩ | ⟨-, -, rfl⟩
  · exact .inl rfl
  · exact .inr (.inr hrun)
  · exact .inr (.inl rfl)

/-! ### STOP of each kind of transaction -/

theorem closeXfer_write_eq {x : Xfer} (hdir : x.dir = .write) (ok : Bool) (q : Seq) (s : State) :
    closeXfer x ok q s = { s with trace := s.trace ++ [.stop], bus := .idle, seq := q } := by
  obtain ⟨hrx, henv⟩ := closeXfer_kept (.inr hdir) q s (ok := ok)
  rw [closeXfer_eq, hrx, henv]

theorem closeStatusWrite_eq (again ok : Bool) (onByte : Byte → Seq) (s : State) :
    closeStatusWrite again ok onByte s = { s with
      trace := s.trace ++ [.stop], bus := .idle, seq := (closeStatusWrite again ok onByte s).seq
      devstat := (closeStatusWrite again ok onByte s).devstat, rx := (closeStatusWrite again ok onByte s).rx
      env := { s.env with draws := (closeStatusWrite again ok onByte s).env.draws } } := by
  cases ok with
  | true => rfl
  | false => exact absorbFailure_eq (.statusWrite again) s onByte

theorem closeStatusRead_eq (again ok : Bool) (onByte : Byte → Seq) (s : State) :
    closeStatusRead again ok onByte s = { s with
      trace := s.trace ++ [.stop], bus := .idle, seq := (closeStatusRead again ok onByte s).seq
      devstat := (closeStatusRead again ok onByte s).devstat, rx := (closeStatusRead again ok onByte s).rx
      env := { s.env with draws := (closeStatusRead again ok onByte s).env.draws } } := by
  cases ok with
  | true => rfl
  | false => exact absorbFailure_eq (.statusRead again) s onByte

/-- A status read's transactions reach RX[0] only (R36, R165). -/
theorem closeStatusWrite_rx_other (again ok : Bool) (onByte : Byte → Seq) (s : State) (j : Fin 7) :
    (closeStatusWrite again ok onByte s).rx[j] = s.rx[j] := by
  cases ok with
  | true => rfl
  | false => exact absorbFailure_rx_other (.inl rfl) onByte s j (.inl rfl)

theorem closeStatusRead_rx_other (again ok : Bool) (onByte : Byte → Seq) (s : State) (j : Fin 7) (hj : 1 ≤ j.val) :
    (closeStatusRead again ok onByte s).rx[j] = s.rx[j] := by
  cases ok with
  | true => rfl
  | false => exact absorbFailure_rx_other (.inr rfl) onByte s j (.inr hj)

/-! ### BUS_WRITE, BUS_READ and the address byte -/

theorem advanceBusWrite_frame {s t : State} (h : advanceBusWrite s = .next t) :
    t = { s with stat := t.stat, cur := t.cur, seq := t.seq, bus := t.bus, trace := t.trace
                 stallTicks := t.stallTicks, env := t.env } := by
  unfold advanceBusWrite at h
  split at h <;> cases h
  · rfl
  · rw [sendByte, transmit_eq]
  · rw [closeXfer_write_eq rfl]
  · rfl

theorem advanceBusWrite_fsm {s t : State} (h : advanceBusWrite s = .next t) : t.stat.fsm = s.stat.fsm := by
  unfold advanceBusWrite at h
  split at h <;> cases h <;> simp

theorem advanceBusRead_frame {s t : State} (h : advanceBusRead s = .next t) :
    t = { s with stat := t.stat, rx := t.rx, cur := t.cur, seq := t.seq, bus := t.bus, trace := t.trace
                 stallTicks := t.stallTicks, env := t.env } := by
  have hdev (i : Nat) : (receiveByte .hostRead i s).devstat = s.devstat :=
    (receiveByte_devstat .hostRead i s).resolve_right fun hstatus => nomatch hstatus.1
  unfold advanceBusRead at h
  split at h <;> cases h
  · rfl
  · rw [receiveByte_eq, hdev]
  · rw [closeXfer_eq]
  · rfl

theorem advanceBusRead_fsm {s t : State} (h : advanceBusRead s = .next t) : t.stat.fsm = s.stat.fsm := by
  unfold advanceBusRead at h
  split at h <;> cases h <;> simp

theorem advanceBusRead_rx_other {s t : State} (h : advanceBusRead s = .next t)
    (hin : ∀ i, s.seq = .data .hostRead i → i < s.len.toNat) (j : Fin 7) (hj : s.len.toNat ≤ j.val) :
    t.rx[j] = s.rx[j] := by
  unfold advanceBusRead at h
  split at h <;> cases h
  next => rfl
  next i hseq => exact receiveByte_rx_other _ i s j ((hin i hseq).trans_le hj).ne
  next => exact closeXfer_rx_other .hostRead _ _ s j (.inr hj)
  next => rfl

/-- The rows that send a byte change no register (R80, R114). -/
theorem exec_busAddressByte_frame {a : BusAddr} {d : Dir} {s t : State} (h : exec (.busAddressByte a d) s = .next t) :
    t = { s with seq := t.seq, trace := t.trace, stallTicks := t.stallTicks, env := t.env } := by
  simp only [exec, execBusAddressByte] at h
  split at h
  · split at h <;> cases h
    rw [transmit_eq]
  · cases h

/-- Settles O37. -/
theorem transportFrame : Obligations.TransportFrame := by
  intro s t
  refine ⟨fun h => ?write, fun h => ?read, fun a d => exec_busAddressByte_frame⟩
  case write =>
    rcases exec_toInstr_cases (c := .busWrite) h with rfl | rfl | hrun
    · exact ⟨by rw [issue_eq], issue_fsm _ s, issue_valid _ s⟩
    · exact ⟨rfl, rfl, rfl⟩
    · obtain ⟨-, -, hvalid⟩ := advanceBusWrite_readingKept hrun
      exact ⟨by rw [advanceBusWrite_frame hrun], advanceBusWrite_fsm hrun, hvalid⟩
  case read =>
    rcases exec_toInstr_cases (c := .busRead) h with rfl | rfl | hrun
    · exact ⟨by rw [issue_eq], issue_fsm _ s, issue_valid _ s, fun _ j _ => by rw [issue_rx]⟩
    · exact ⟨rfl, rfl, rfl, fun _ _ _ => rfl⟩
    · obtain ⟨-, -, hvalid⟩ := advanceBusRead_readingKept hrun
      exact ⟨by rw [advanceBusRead_frame hrun], advanceBusRead_fsm hrun, hvalid, advanceBusRead_rx_other hrun⟩

/-! ### The device commands -/

theorem exec_device_frame {i : Instr} {s t : State}
    (hi : i = .devInit ∨ i = .devMeasure ∨ i = .devSoftReset ∨ i = .devStatus) (h : exec i s = .next t) :
    t = { s with seq := t.seq, trace := t.trace, stallTicks := t.stallTicks, env := t.env } := by
  rcases hi with rfl | rfl | rfl | rfl <;>
    simp only [exec, execDevInit, execDevMeasure, execDevSoftReset, execDevStatus, sendByte] at h <;>
    split at h <;> cases h <;> rw [transmit_eq]

/-- Settles O38: no register is among what the row's step writes. -/
theorem deviceCommandFrame : Obligations.DeviceCommandFrame := by
  intro s t i hi h
  have hframe := exec_device_frame hi h
  refine ⟨hframe, fun r => ?_⟩
  rw [hframe]
  cases r <;> rfl

/-! ### STATUS_READ, INITIALIZE and SOFT_RESET -/

theorem advanceStatusRead_frame {s t : State} (h : advanceStatusRead s = .next t) :
    t = { s with stat := t.stat, rx := t.rx, devstat := t.devstat, cur := t.cur, seq := t.seq, bus := t.bus
                 trace := t.trace, stallTicks := t.stallTicks, env := t.env } := by
  unfold advanceStatusRead at h
  split at h <;> cases h
  · rfl
  · rw [closeStatusWrite_eq]
  · rfl
  · rw [receiveByte_eq]
  · rw [closeStatusRead_eq]
  · rfl

theorem advanceStatusRead_fsm {s t : State} (h : advanceStatusRead s = .next t) : t.stat.fsm = s.stat.fsm := by
  unfold advanceStatusRead at h
  split at h <;> cases h <;> simp

theorem advanceStatusRead_rx_other {s t : State} (h : advanceStatusRead s = .next t)
    (hin : ∀ i, s.seq = .data (.statusRead false) i → i = 0) (j : Fin 7) (hj : 1 ≤ j.val) : t.rx[j] = s.rx[j] := by
  unfold advanceStatusRead at h
  split at h <;> cases h
  next => rfl
  next => exact closeStatusWrite_rx_other _ _ _ s j
  next => rfl
  next i hseq => exact receiveByte_rx_other _ i s j (by rw [hin i hseq]; omega)
  next => exact closeStatusRead_rx_other _ _ _ s j hj
  next => rfl

theorem advanceInitialize_frame {s t : State} (h : advanceInitialize s = .next t) :
    t = { s with stat := t.stat, rx := t.rx, devstat := t.devstat, cur := t.cur, seq := t.seq, bus := t.bus
                 waitLeft := t.waitLeft, trace := t.trace, stallTicks := t.stallTicks, env := t.env } := by
  unfold advanceInitialize at h
  split at h <;> cases h
  · rfl
  · rw [closeStatusWrite_eq]
  · rfl
  · rw [receiveByte_eq]
  · rw [closeStatusRead_eq]
  · rfl
  · rw [closeXfer_eq]
  · rw [beginWait_eq]
  · rfl
  · rfl

theorem advanceInitialize_rx_other {s t : State} (h : advanceInitialize s = .next t)
    (hin : ∀ again i, s.seq = .data (.statusRead again) i → i = 0) (j : Fin 7) (hj : 1 ≤ j.val) :
    t.rx[j] = s.rx[j] := by
  unfold advanceInitialize at h
  split at h <;> cases h
  next => rfl
  next => exact closeStatusWrite_rx_other _ _ _ s j
  next => rfl
  next again i hseq => exact receiveByte_rx_other _ i s j (by rw [hin again i hseq]; omega)
  next => exact closeStatusRead_rx_other _ _ _ s j hj
  next => rfl
  next => exact closeXfer_rx_other .initWrite _ _ s j (.inl rfl)
  next => rw [beginWait_rx]
  next => rfl
  next => rfl

theorem advanceSoftReset_frame {s t : State} (h : advanceSoftReset s = .next t) :
    t = { s with stat := t.stat, cur := t.cur, seq := t.seq, bus := t.bus, waitLeft := t.waitLeft
                 trace := t.trace, stallTicks := t.stallTicks, env := t.env } := by
  unfold advanceSoftReset at h
  split at h <;> cases h
  · rfl
  · rw [closeXfer_write_eq rfl]
  · rw [beginWait_eq]
  · rfl
  · rfl

/-- Settles O39. -/
theorem sequencerFrame : Obligations.SequencerFrame := by
  intro s t
  refine ⟨fun h => ?status, fun h => ?init, fun h => ?reset⟩
  case status =>
    rcases exec_toInstr_cases (c := .statusRead) h with rfl | rfl | hrun
    · exact ⟨by rw [issue_eq], issue_fsm _ s, issue_valid _ s, fun _ j _ => by rw [issue_rx]⟩
    · exact ⟨rfl, rfl, rfl, fun _ _ _ => rfl⟩
    · obtain ⟨-, -, hvalid⟩ := advanceStatusRead_readingKept hrun
      exact ⟨by rw [advanceStatusRead_frame hrun], advanceStatusRead_fsm hrun, hvalid,
        advanceStatusRead_rx_other hrun⟩
  case init =>
    rcases exec_toInstr_cases (c := .initializeCmd) h with rfl | rfl | hrun
    · exact ⟨by rw [issue_eq], issue_valid _ s, fun _ j _ => by rw [issue_rx]⟩
    · exact ⟨rfl, rfl, fun _ _ _ => rfl⟩
    · obtain ⟨-, -, hvalid⟩ := advanceInitialize_readingKept hrun
      exact ⟨by rw [advanceInitialize_frame hrun], hvalid, advanceInitialize_rx_other hrun⟩
  case reset =>
    rcases exec_toInstr_cases (c := .softReset) h with rfl | rfl | hrun
    · exact ⟨by rw [issue_eq], issue_valid _ s⟩
    · exact ⟨rfl, rfl⟩
    · obtain ⟨-, -, hvalid⟩ := advanceSoftReset_readingKept hrun
      exact ⟨by rw [advanceSoftReset_frame hrun], hvalid⟩

/-! ### MEASURE -/

theorem beginMeasure_eq (s : State) : beginMeasure s = { s with
    stat := (beginMeasure s).stat, cur := (beginMeasure s).cur, seq := (beginMeasure s).seq
    bus := (beginMeasure s).bus, trace := (beginMeasure s).trace, stallTicks := (beginMeasure s).stallTicks } := by
  unfold beginMeasure
  split <;> rfl

theorem receiveByte_frameRead_devstat (c : Bool) (i : Nat) (s : State) :
    (receiveByte (.frameRead c) i s).devstat = s.devstat :=
  (receiveByte_devstat (.frameRead c) i s).resolve_right fun hstatus => nomatch hstatus.1

theorem advanceMeasure_frame {c : Bool} {s t : State} (h : advanceMeasure c s = .next t) :
    t = { s with stat := t.stat, rx := t.rx, devstat := t.devstat, crcCalc := t.crcCalc, crcRecv := t.crcRecv
                 rawH := t.rawH, rawT := t.rawT, cur := t.cur, seq := t.seq, bus := t.bus, waitLeft := t.waitLeft
                 trace := t.trace, stallTicks := t.stallTicks, env := t.env } := by
  unfold advanceMeasure at h
  split at h <;> cases h
  · rw [beginMeasure_eq]
  · rw [closeXfer_eq]
  · rw [beginWait_eq]
  · rfl
  · rfl
  · rw [receiveByte_eq]
  · rw [closeXfer_eq]
  · rw [evaluateFrame_eq]
  · rfl

/-- DEVSTAT and CRCR wait for the step over the frame (R37, R38). -/
theorem advanceMeasure_results {c : Bool} {s t : State} (h : advanceMeasure c s = .next t) (hseq : s.seq ≠ .evaluate) :
    t.devstat = s.devstat ∧ t.crcCalc = s.crcCalc ∧ t.crcRecv = s.crcRecv := by
  unfold advanceMeasure at h
  split at h
  case h_8 hevaluate => exact absurd hevaluate hseq
  all_goals cases h <;> simp [receiveByte_frameRead_devstat]

/-- Without CRC_EN no step writes CRCR (R38). -/
theorem advanceMeasure_noCrc {s t : State} (h : advanceMeasure false s = .next t) :
    t.crcCalc = s.crcCalc ∧ t.crcRecv = s.crcRecv := by
  by_cases hseq : s.seq = .evaluate
  · rw [advanceMeasure, hseq] at h
    cases h
    exact (evaluateFrame_crc false s).resolve_right fun hcrc => Bool.false_ne_true hcrc.1
  · obtain ⟨-, hcrc⟩ := advanceMeasure_results h hseq
    exact hcrc

/-- A frame without CRC does not reach RX[6] (R36, R83). -/
theorem advanceMeasure_rx_last {s t : State} (h : advanceMeasure false s = .next t)
    (hin : ∀ d i, s.seq = .data (.frameRead d) i → d = false ∧ i < 6)
    (hstop : ∀ d ok, s.seq = .stop (.frameRead d) ok → d = false) : t.rx[6] = s.rx[6] := by
  unfold advanceMeasure at h
  split at h <;> cases h
  next => rw [beginMeasure_rx]
  next => exact closeXfer_rx_other .trigger _ _ s 6 (.inl rfl)
  next => rw [beginWait_rx]
  next => rfl
  next => rfl
  next d i hseq => exact receiveByte_rx_other _ i s 6 (hin d i hseq).2.ne
  next d ok hseq =>
    obtain rfl := hstop d ok hseq
    exact closeXfer_rx_other (.frameRead false) _ _ s 6 (.inr le_rfl)
  next => rw [evaluateFrame_rx]
  next => rfl

/-- Settles O40. -/
theorem measureFrame : Obligations.MeasureFrame := by
  intro s t c h
  rcases exec_toInstr_cases (c := .measure c) h with rfl | rfl | hrun
  · exact ⟨by rw [issue_eq], fun _ => ⟨issue_crcCalc _ s, issue_crcRecv _ s⟩, fun _ _ _ => by rw [issue_rx],
      fun _ => ⟨issue_devstat _ s, issue_crcCalc _ s, issue_crcRecv _ s, issue_readingKept _ s⟩⟩
  · exact ⟨rfl, fun _ => ⟨rfl, rfl⟩, fun _ _ _ => rfl, fun _ => ⟨rfl, rfl, rfl, rfl, rfl, rfl⟩⟩
  · refine ⟨by rw [advanceMeasure_frame hrun], fun hc => ?_, fun hc => ?_, fun hseq => ?_⟩
    · subst hc
      exact advanceMeasure_noCrc hrun
    · subst hc
      exact advanceMeasure_rx_last hrun
    · obtain ⟨hdev, hcalc, hrecv⟩ := advanceMeasure_results hrun hseq
      have hreading : ReadingKept s t := (advanceMeasure_cases hrun).resolve_right fun hframe => hseq hframe.1
      exact ⟨hdev, hcalc, hrecv, hreading⟩

end Sys2Proof.Proofs
end

section
/-! The conversion to %RH and °C in binary64 (R216). -/

namespace Sys2Proof.Proofs

open Sys2Proof.Machine Sys2Proof.Laws

/-- A natural number that fits the significand, over a power of two, is exact. -/
theorem exactInBinary64_div {n k : Nat} (hn : n < 2 ^ 53) (hk : k ≤ 1074) : exactInBinary64 ((n : Rat) / 2 ^ k) :=
  ⟨n, k, hn, hk, rfl⟩

theorem exactInBinary64_nat {n : Nat} (hn : n < 2 ^ 53) : exactInBinary64 (n : Rat) :=
  ⟨n, 0, hn, Nat.zero_le _, by simp⟩

/-- Settles O60: a raw value has 20 bits, so with any factor of the conversion it has less than 53. -/
theorem conversionExactInBinary64 : Obligations.ConversionExactInBinary64 := by
  intro r
  have hr : r.toNat < 2 ^ 20 := r.isLt
  have hhundred : r.toNat * 100 < 2 ^ 53 := by omega
  have htwoHundred : r.toNat * 200 < 2 ^ 53 := by omega
  have hcelsius : exactInBinary64 (celsius r) :=
    ⟨r.toNat * 200 - 50 * 2 ^ 20, 20, by omega, by decide, by rw [celsius]; push_cast; ring⟩
  refine ⟨exactInBinary64_nat (by omega), exactInBinary64_div (by omega) (by decide), ?_, ?_, ?_, ?_, hcelsius⟩
  · exact_mod_cast exactInBinary64_nat hhundred
  · rw [relHumidity]
    exact_mod_cast exactInBinary64_div (k := 20) hhundred (by decide)
  · exact_mod_cast exactInBinary64_nat htwoHundred
  · exact_mod_cast exactInBinary64_div (k := 20) htwoHundred (by decide)

end Sys2Proof.Proofs
end
